-- ==== Sys2Proof/Word.lean ====
section
/-! DEFINITION. The word types of the block: bytes, the 16-bit frame word, the signed 32-bit operands,
the delay register, line identifiers and the two line levels. -/

namespace Sys2Proof

/-- A byte: a register code, a data byte or a byte operand (92_eei_decisions.md D28). -/
abbrev Byte := BitVec 8

/-- The 16-bit word of one frame, address in bits 15:8, data in bits 7:0 (R90, R94). -/
abbrev FrameWord := BitVec 16

/-- A signed 32-bit operand in two's complement (R9, 92_eei_decisions.md D28). -/
abbrev Int32Word := BitVec 32

/-- The delay register, COMM_DELAY_BITS wide (R24).
DESIGN CHOICE: the spec's suggested 16 bits, log 9, unsafe. -/
abbrev CommDelay := BitVec 16

/-- A GPIO line identifier; the spec leaves its type open (R7, 92_eei_decisions.md D17).
DESIGN CHOICE: eight bits, log 14, unsafe. -/
abbrev LineId := BitVec 8

/-- The level of an output line, 0 or 1 (R11). -/
inductive Level where
  /-- level 0 -/
  | low
  /-- level 1 -/
  | high
deriving DecidableEq, Repr

/-- The other level: the deasserted level is `1 - A` (40_transport.md, line names). -/
def Level.other : Level → Level
  | .low => .high
  | .high => .low

/-- The level that carries a bit. -/
def Level.ofBit (b : Bool) : Level := if b then .high else .low

end Sys2Proof
end

