-- ==== Sys2Proof/Config.lean ====
section
/-! DEFINITION. What an implementation fixes (R7, R48) and the model's free values. The opaque constants
have no body: no proof can evaluate them, and a claim about them holds whatever they are. -/

namespace Sys2Proof.Config

/-- The asserted level of chip-select, on both paths (R7, 92_eei_decisions.md D3).
UNVERIFIED: the spec's own decision, log 10, unsafe. -/
def csActive : Level := .low

/-- The decode-mode byte for "no decode" (R7, R27).
PRESUMED: the suggested value 93_implementation_defined.md G2 takes from general knowledge, log 11, unsafe. -/
def decodeNone : Byte := 0x00#8

/-- The decode-mode byte for "BCD Code-B decode" (R7, R27).
PRESUMED: the suggested value 93_implementation_defined.md G2 takes from general knowledge, log 11, unsafe. -/
def decodeCodeB : Byte := 0xFF#8

/-- FREE VALUE: the Font Table (R180). Seven bits, so bit 7 of every entry is clear; its 91 values are not in
the document (log 12, safe). It is read on 0x20..0x7A only (R181). -/
opaque font : Byte → BitVec 7

/-- FREE VALUE: the clock divider derived from a requested bus frequency in kHz (R133,
92_eei_decisions.md D15; log 13, safe). -/
opaque dividerOf : Int32Word → Nat

/-- FREE VALUE: the divider used when the request is not positive (R133, 92_eei_decisions.md D15; log 13, safe). -/
opaque fallbackDivider : Nat

/-- FREE VALUE: what the chip's register `code` holds after the `n`-th frame with a code the document does not
define, or `none` for no value (R46, R105, 92_eei_decisions.md D19; log 8, safe). `old` is what the chip held
before, `addr` and `data` are the frame. -/
opaque freeSink (n : Nat) (old : List (Nat × Byte)) (addr data : Byte) (code : Nat) : Option Byte

end Sys2Proof.Config
end

