-- ==== Sys2Proof/Syntax.lean ====
section
/-! DEFINITION. The instructions: one constructor for each row of spec/opcode_table.json, with the typed
operands of R12, R90, R130 and R131. -/

namespace Sys2Proof

/-- The alignment operand (R12, R104). -/
inductive TextAlignment where
  /-- `Left`, code 0 -/
  | left
  /-- `Right`, code 1 -/
  | right
  /-- `RightZeros`, code 2 -/
  | rightZeros
deriving DecidableEq, Repr

/-- One row of the opcode table. The first fourteen are the frames of format FRAME16 as the addressed chip
receives them (R39 to R45, R103), with their data byte; the others are of format CMD (R102, R104). -/
inductive Instr where
  /-- NOOP, register code 0x00 (R39) -/
  | noop (data : Byte)
  /-- DIGIT0, register code 0x01 (R40) -/
  | digit0 (data : Byte)
  /-- DIGIT1, register code 0x02 (R40) -/
  | digit1 (data : Byte)
  /-- DIGIT2, register code 0x03 (R40) -/
  | digit2 (data : Byte)
  /-- DIGIT3, register code 0x04 (R40) -/
  | digit3 (data : Byte)
  /-- DIGIT4, register code 0x05 (R40) -/
  | digit4 (data : Byte)
  /-- DIGIT5, register code 0x06 (R40) -/
  | digit5 (data : Byte)
  /-- DIGIT6, register code 0x07 (R40) -/
  | digit6 (data : Byte)
  /-- DIGIT7, register code 0x08 (R40) -/
  | digit7 (data : Byte)
  /-- DECODE_MODE, register code 0x09 (R41) -/
  | decodeMode (data : Byte)
  /-- INTENSITY, register code 0x0A (R42) -/
  | intensity (data : Byte)
  /-- SCAN_LIMIT, register code 0x0B (R43) -/
  | scanLimit (data : Byte)
  /-- SHUTDOWN, register code 0x0C (R44) -/
  | shutdown (data : Byte)
  /-- DISPLAY_TEST, register code 0x0F (R45) -/
  | displayTest (data : Byte)
  /-- RESET_SW(clk, cs, din): construct on the software path (R130) -/
  | resetSw (clk cs din : LineId)
  /-- RESET_HW(kHz, csIndex): construct on the hardware path (R131) -/
  | resetHw (kHz : Int32Word) (csIndex : Byte)
  /-- BEGIN_SESSION, internal micro-operation (R132, R133) -/
  | beginSession
  /-- END_SESSION, internal micro-operation (R134, R135) -/
  | endSession
  /-- WRITE_FRAME(addr, data) (R136) -/
  | writeFrame (addr data : Byte)
  /-- SET_COMM_DELAY(us) (R144) -/
  | setCommDelay (us : CommDelay)
  /-- GET_COMM_DELAY (R145) -/
  | getCommDelay
  /-- INITIALIZE(digitCount, decodeMode) (R161) -/
  | initialise (digitCount decodeMode : Byte)
  /-- CLEAR (R162) -/
  | clear
  /-- SET_SEGMENTS(digitIndex, rawByte) (R163) -/
  | setSegments (digitIndex rawByte : Byte)
  /-- SET_BRIGHTNESS(level) (R164) -/
  | setBrightness (level : Byte)
  /-- SET_SHUTDOWN(on) (R165) -/
  | setShutdown (on : Bool)
  /-- SET_DISPLAY_TEST(on) (R166) -/
  | setDisplayTest (on : Bool)
  /-- END_OPERATIONS (R167) -/
  | endOperations
  /-- DISPLAY_CHAR(digitIndex, asciiCode, decimalPoint) (R182) -/
  | displayChar (digitIndex asciiCode : Byte) (decimalPoint : Bool)
  /-- DISPLAY_TEXT_ALIGNED(text, alignment) (R185) -/
  | displayTextAligned (text : List Byte) (alignment : TextAlignment)
  /-- DISPLAY_TEXT(text) (R186) -/
  | displayText (text : List Byte)
  /-- DISPLAY_INTEGER(value, alignment) (R188) -/
  | displayInteger (value : Int32Word) (alignment : TextAlignment)
  /-- DISPLAY_TWO_FIELDS(upperValue, lowerValue, alignment) (R189) -/
  | displayTwoFields (upperValue lowerValue : Int32Word) (alignment : TextAlignment)
deriving DecidableEq, Repr

/-- An instruction in its encoded form, in one of the table's two formats. -/
inductive Encoded where
  /-- format FRAME16: the word on the wire, bit 15 first (R90) -/
  | frame16 (word : FrameWord)
  /-- format CMD: the command code and its operand bytes (R102).
  DESIGN CHOICE: the operand bytes' layout is the model's, log 2 -/
  | cmd (bytes : List Byte)
deriving DecidableEq, Repr

end Sys2Proof
end

