-- ==== Sys2Proof/WellFormed.lean ====
section
/-! DEFINITION. Which instruction terms the encoding can carry (`Instr.wellFormed`), and which operand values
lie in the ranges R12, R106, R130 and R131 give (`Instr.operandsInRange`). A command with an operand out of
range is well formed: it can be presented, and the block refuses it by name (R219). -/

namespace Sys2Proof

/-- A text is a finite list of bytes, none of them 0x00 (92_eei_decisions.md D29). -/
def textOk (t : List Byte) : Bool := t.all (· != 0x00#8)

/-- The one syntactic condition: text operands are texts (92_eei_decisions.md D29). -/
def Instr.wellFormed : Instr → Bool
  | .displayTextAligned t _ => textOk t
  | .displayText t => textOk t
  | _ => true

/-- A digit index that addresses a digit register (R95, R106). -/
def digitIndexOk (i : Byte) : Bool := decide (i.toNat ≤ 7)

/-- A digit count in 1..8 (R26, R106). -/
def digitCountOk (n : Byte) : Bool := decide (1 ≤ n.toNat ∧ n.toNat ≤ 8)

/-- One of the two legal decode-mode bytes (R27, R106). -/
def decodeModeOk (m : Byte) : Bool := decide (m = Config.decodeNone ∨ m = Config.decodeCodeB)

/-- Pairwise distinct line identifiers (R22, R130). -/
def linesDistinct (clk cs din : LineId) : Bool := decide (clk ≠ cs ∧ clk ≠ din ∧ cs ≠ din)

/-- A chip-select index, 0 or 1 (R23, R131). -/
def csIndexOk (i : Byte) : Bool := decide (i.toNat ≤ 1)

/-- The operand ranges of R12, R106, R130 and R131. -/
def Instr.operandsInRange : Instr → Bool
  | .resetSw clk cs din => linesDistinct clk cs din
  | .resetHw _ i => csIndexOk i
  | .initialise n m => digitCountOk n && decodeModeOk m
  | .setSegments i _ => digitIndexOk i
  | .displayChar i _ _ => digitIndexOk i
  | _ => true

end Sys2Proof
end

