-- ==== Sys2Proof/Decode.lean ====
section
/-! DEFINITION. The decoder of both formats, total on any input and rejecting by name, and after it the
encoder. FRAME16: R90, R94, R103. CMD: the codes of R104; the operand bytes follow the code in the order of R12,
wide operands most significant byte first, a boolean as 0 or 1, an alignment as its code of R104, a text ended by
0x00 (which no text holds, 92_eei_decisions.md D29). DESIGN CHOICE: this operand layout, log 2. -/

namespace Sys2Proof

/-- Why an encoded form is no instruction. -/
inductive DecodeReject where
  /-- no byte at all was presented -/
  | noCode
  /-- the command code is not in R104 (R106, R219) -/
  | unknownCommand (code : Byte)
  /-- the alignment code is above 2 (R106, R219) -/
  | badAlignment (code : Byte)
  /-- a boolean operand other than 0 and 1 (R104; log 27) -/
  | badBoolean (value : Byte)
  /-- too few or too many operand bytes for the command code (log 27) -/
  | badOperands (code : Byte)
  /-- a register code the document does not define: 0x0D, 0x0E, 0x10..0xFF (R46, R105) -/
  | undefinedFrame (addr : Byte)
deriving DecidableEq, Repr

/-- The address byte of a frame word, bits 15:8 (R90). -/
def frameAddr (w : FrameWord) : Byte := w.extractLsb' 8 8

/-- The data byte of a frame word, bits 7:0 (R90). -/
def frameData (w : FrameWord) : Byte := w.extractLsb' 0 8

/-- The frame word `addr ++ data` (R94). -/
def frameWord (addr data : Byte) : FrameWord := addr ++ data

/-- The 16-bit word of two bytes, most significant first (log 2). -/
def wordOfBytes (b1 b0 : Byte) : BitVec 16 := b1 ++ b0

/-- The 32-bit word of four bytes, most significant first (log 2). -/
def int32OfBytes (b3 b2 b1 b0 : Byte) : Int32Word := b3 ++ b2 ++ b1 ++ b0

/-- Byte `k` of a 32-bit word, byte 0 the least significant. -/
def byteOfInt32 (w : Int32Word) (k : Nat) : Byte := w.extractLsb' (8 * k) 8

/-- Byte `k` of a 16-bit word, byte 0 the least significant. -/
def byteOfWord (w : BitVec 16) (k : Nat) : Byte := w.extractLsb' (8 * k) 8

/-- A boolean operand: `false` = 0, `true` = 1 (R104). -/
def decodeBool (b : Byte) : Except DecodeReject Bool :=
  if b = 0x00#8 then .ok false
  else if b = 0x01#8 then .ok true
  else .error (.badBoolean b)

/-- An alignment operand: `Left` = 0, `Right` = 1, `RightZeros` = 2 (R104). -/
def decodeAlignment (b : Byte) : Except DecodeReject TextAlignment :=
  if b = 0x00#8 then .ok .left
  else if b = 0x01#8 then .ok .right
  else if b = 0x02#8 then .ok .rightZeros
  else .error (.badAlignment b)

/-- The text up to its ending 0x00, and what follows it. -/
def splitText : List Byte → Option (List Byte × List Byte)
  | [] => none
  | b :: bs => if b = 0x00#8 then some ([], bs) else (splitText bs).map fun p => (b :: p.1, p.2)

/-- A frame is matched on bits 15:8 alone (R103). -/
def decodeFrame (w : FrameWord) : Except DecodeReject Instr :=
  match (frameAddr w).toNat with
  | 0x00 => .ok (.noop (frameData w))
  | 0x01 => .ok (.digit0 (frameData w))
  | 0x02 => .ok (.digit1 (frameData w))
  | 0x03 => .ok (.digit2 (frameData w))
  | 0x04 => .ok (.digit3 (frameData w))
  | 0x05 => .ok (.digit4 (frameData w))
  | 0x06 => .ok (.digit5 (frameData w))
  | 0x07 => .ok (.digit6 (frameData w))
  | 0x08 => .ok (.digit7 (frameData w))
  | 0x09 => .ok (.decodeMode (frameData w))
  | 0x0A => .ok (.intensity (frameData w))
  | 0x0B => .ok (.scanLimit (frameData w))
  | 0x0C => .ok (.shutdown (frameData w))
  | 0x0F => .ok (.displayTest (frameData w))
  | _ => .error (.undefinedFrame (frameAddr w))

/-- A command is matched on its code alone (R102, R104); then its operands are read. -/
def decodeCommand : List Byte → Except DecodeReject Instr
  | [] => .error .noCode
  | code :: ops =>
    match code.toNat with
    | 0x01 => match ops with
      | [clk, cs, din] => .ok (.resetSw clk cs din)
      | _ => .error (.badOperands code)
    | 0x02 => match ops with
      | [k3, k2, k1, k0, i] => .ok (.resetHw (int32OfBytes k3 k2 k1 k0) i)
      | _ => .error (.badOperands code)
    | 0x10 => match ops with
      | [] => .ok .beginSession
      | _ => .error (.badOperands code)
    | 0x11 => match ops with
      | [] => .ok .endSession
      | _ => .error (.badOperands code)
    | 0x12 => match ops with
      | [addr, data] => .ok (.writeFrame addr data)
      | _ => .error (.badOperands code)
    | 0x13 => match ops with
      | [u1, u0] => .ok (.setCommDelay (wordOfBytes u1 u0))
      | _ => .error (.badOperands code)
    | 0x14 => match ops with
      | [] => .ok .getCommDelay
      | _ => .error (.badOperands code)
    | 0x20 => match ops with
      | [n, m] => .ok (.initialise n m)
      | _ => .error (.badOperands code)
    | 0x21 => match ops with
      | [] => .ok .clear
      | _ => .error (.badOperands code)
    | 0x22 => match ops with
      | [i, b] => .ok (.setSegments i b)
      | _ => .error (.badOperands code)
    | 0x23 => match ops with
      | [l] => .ok (.setBrightness l)
      | _ => .error (.badOperands code)
    | 0x24 => match ops with
      | [on] => (decodeBool on).map .setShutdown
      | _ => .error (.badOperands code)
    | 0x25 => match ops with
      | [on] => (decodeBool on).map .setDisplayTest
      | _ => .error (.badOperands code)
    | 0x26 => match ops with
      | [] => .ok .endOperations
      | _ => .error (.badOperands code)
    | 0x30 => match ops with
      | [i, c, p] => (decodeBool p).map (.displayChar i c)
      | _ => .error (.badOperands code)
    | 0x31 => match splitText ops with
      | some (t, [al]) => (decodeAlignment al).map (.displayTextAligned t)
      | _ => .error (.badOperands code)
    | 0x32 => match splitText ops with
      | some (t, []) => .ok (.displayText t)
      | _ => .error (.badOperands code)
    | 0x33 => match ops with
      | [v3, v2, v1, v0, al] => (decodeAlignment al).map (.displayInteger (int32OfBytes v3 v2 v1 v0))
      | _ => .error (.badOperands code)
    | 0x34 => match ops with
      | [u3, u2, u1, u0, l3, l2, l1, l0, al] =>
        (decodeAlignment al).map (.displayTwoFields (int32OfBytes u3 u2 u1 u0) (int32OfBytes l3 l2 l1 l0))
      | _ => .error (.badOperands code)
    | _ => .error (.unknownCommand code)

/-- The decoder of both formats. -/
def decode : Encoded → Except DecodeReject Instr
  | .frame16 w => decodeFrame w
  | .cmd bytes => decodeCommand bytes

/-- The byte of a boolean operand (R104). -/
def encodeBool (b : Bool) : Byte := if b then 0x01#8 else 0x00#8

/-- The byte of an alignment operand (R104). -/
def encodeAlignment : TextAlignment → Byte
  | .left => 0x00#8
  | .right => 0x01#8
  | .rightZeros => 0x02#8

/-- The four bytes of a signed 32-bit operand, most significant first (log 2). -/
def encodeInt32 (w : Int32Word) : List Byte :=
  [byteOfInt32 w 3, byteOfInt32 w 2, byteOfInt32 w 1, byteOfInt32 w 0]

/-- The two bytes of a delay operand, most significant first (log 2). -/
def encodeDelay (w : CommDelay) : List Byte := [byteOfWord w 1, byteOfWord w 0]

/-- The encoder, from the frame codes of R103 and the command codes of R104. -/
def encode : Instr → Encoded
  | .noop d => .frame16 (frameWord 0x00#8 d)
  | .digit0 d => .frame16 (frameWord 0x01#8 d)
  | .digit1 d => .frame16 (frameWord 0x02#8 d)
  | .digit2 d => .frame16 (frameWord 0x03#8 d)
  | .digit3 d => .frame16 (frameWord 0x04#8 d)
  | .digit4 d => .frame16 (frameWord 0x05#8 d)
  | .digit5 d => .frame16 (frameWord 0x06#8 d)
  | .digit6 d => .frame16 (frameWord 0x07#8 d)
  | .digit7 d => .frame16 (frameWord 0x08#8 d)
  | .decodeMode d => .frame16 (frameWord 0x09#8 d)
  | .intensity d => .frame16 (frameWord 0x0A#8 d)
  | .scanLimit d => .frame16 (frameWord 0x0B#8 d)
  | .shutdown d => .frame16 (frameWord 0x0C#8 d)
  | .displayTest d => .frame16 (frameWord 0x0F#8 d)
  | .resetSw clk cs din => .cmd [0x01#8, clk, cs, din]
  | .resetHw k i => .cmd (0x02#8 :: (encodeInt32 k ++ [i]))
  | .beginSession => .cmd [0x10#8]
  | .endSession => .cmd [0x11#8]
  | .writeFrame addr data => .cmd [0x12#8, addr, data]
  | .setCommDelay us => .cmd (0x13#8 :: encodeDelay us)
  | .getCommDelay => .cmd [0x14#8]
  | .initialise n m => .cmd [0x20#8, n, m]
  | .clear => .cmd [0x21#8]
  | .setSegments i b => .cmd [0x22#8, i, b]
  | .setBrightness l => .cmd [0x23#8, l]
  | .setShutdown on => .cmd [0x24#8, encodeBool on]
  | .setDisplayTest on => .cmd [0x25#8, encodeBool on]
  | .endOperations => .cmd [0x26#8]
  | .displayChar i c p => .cmd [0x30#8, i, c, encodeBool p]
  | .displayTextAligned t al => .cmd (0x31#8 :: (t ++ [0x00#8, encodeAlignment al]))
  | .displayText t => .cmd (0x32#8 :: (t ++ [0x00#8]))
  | .displayInteger v al => .cmd (0x33#8 :: (encodeInt32 v ++ [encodeAlignment al]))
  | .displayTwoFields u l al => .cmd (0x34#8 :: (encodeInt32 u ++ encodeInt32 l ++ [encodeAlignment al]))

/-- How many operand bytes a command has when every operand byte is zero (an empty text is its ending 0x00). -/
def zeroOperandBytes (code : Byte) : Nat :=
  match code.toNat with
  | 0x01 => 3
  | 0x02 => 5
  | 0x12 => 2
  | 0x13 => 2
  | 0x20 => 2
  | 0x22 => 2
  | 0x23 => 1
  | 0x24 => 1
  | 0x25 => 1
  | 0x30 => 3
  | 0x31 => 2
  | 0x32 => 1
  | 0x33 => 5
  | 0x34 => 9
  | _ => 0

/-- The first `n` bytes of `w`, bits 7:0 first. -/
def tableBytes : Nat → Nat → List Byte
  | 0, _ => []
  | n + 1, w => BitVec.ofNat 8 w :: tableBytes n (w / 256)

/-- Command bytes completed with zero operand bytes. -/
def padOperands : List Byte → List Byte
  | [] => []
  | code :: ops => code :: (ops ++ List.replicate (zeroOperandBytes code - ops.length) 0x00#8)

/-- The encoded form of a table word of `nbits` bits: a FRAME16 row has 16, a CMD row has the 8 of its code. -/
def tableEncoded (nbits w : Nat) : Encoded :=
  if nbits = 16 then .frame16 (BitVec.ofNat 16 w) else .cmd (padOperands (tableBytes (nbits / 8) w))

/-- The instruction the decoder reads from a table word, operand bytes above it zero. -/
def decodeTableWord (nbits w : Nat) : Option Instr :=
  match decode (tableEncoded nbits w) with
  | .ok i => some i
  | .error _ => none

end Sys2Proof
end

