-- ==== Sys2Proof/Machine/State.lean ====
section
/-! DEFINITION. The state of the machine as plain data: the block's fields (R20 to R36), the addressed chip's
registers (R38), the host's side, and the state after reset (R52). The reasons a step can stop. -/

namespace Sys2Proof.Machine

/-- A register: its bits, and whether the spec says it holds a value. `held = false` is the spec's "no value"
(R52): nothing has been stored since construction. The bits are then the model's choice (log 6). -/
structure Reg (α : Type) where
  /-- the register's bits -/
  val : α
  /-- whether a value has been stored since construction -/
  held : Bool
deriving DecidableEq, Repr

/-- A register that a command has stored `a` in. -/
def Reg.stored {α : Type} (a : α) : Reg α := { val := a, held := true }

/-- A register without a value, its bits `a` the model's choice (log 6). -/
def Reg.unset {α : Type} (a : α) : Reg α := { val := a, held := false }

/-- The transport configuration (R20 to R23): one of two mutually exclusive paths. The fields of the other path
are absent, so they are no fields of the constructor. -/
inductive Transport where
  /-- the software path: `CLK_ID`, `CS_ID`, `DIN_ID` (R22) -/
  | software (clk cs din : LineId)
  /-- the hardware path: `busFreqKHz`, `csIndex` (R23) -/
  | hardware (busFreqKHz : Int32Word) (csIndex : Fin 2)
deriving DecidableEq, Repr

/-- The session states (R25). -/
inductive Session where
  /-- constructed, no line touched, no frame sent -/
  | uninitialized
  /-- session begun -/
  | active
  /-- lines idled or bus released; terminal -/
  | ended
deriving DecidableEq, Repr

/-- The five events of a bit cell (R138). -/
inductive Phase where
  /-- phase 0: the data line is set -/
  | data
  /-- phase 1: the clock rises -/
  | rise
  /-- phase 2: the delay after the rising edge -/
  | delayHigh
  /-- phase 3: the clock falls -/
  | fall
  /-- phase 4: the delay after the falling edge -/
  | delayLow
deriving DecidableEq, Repr

/-- The engine position inside a software-path frame (R33). -/
inductive EnginePos where
  /-- no bit cell is in progress -/
  | idle
  /-- the next event is `phase` of bit `k` -/
  | cell (k : Fin 16) (phase : Phase)
deriving DecidableEq, Repr

/-- The direction of a line (R34). -/
inductive LineDir where
  /-- whatever the platform left -/
  | unknown
  /-- configured as an output -/
  | output
deriving DecidableEq, Repr

/-- The level of a line (R34). -/
inductive LineLevel where
  /-- whatever the platform left -/
  | unknown
  /-- driven to a level by the block -/
  | driven (level : Level)
deriving DecidableEq, Repr

/-- One output line (R34). -/
structure Line where
  /-- its direction -/
  dir : LineDir
  /-- its level -/
  level : LineLevel
deriving DecidableEq, Repr

/-- The three output lines of the software path (R34). -/
structure Lines where
  /-- the clock line -/
  clk : Line
  /-- the chip-select line -/
  cs : Line
  /-- the data line -/
  din : Line
deriving DecidableEq, Repr

/-- The bit order of the serial peripheral; the document fixes MSB first (R35). -/
inductive BitOrder where
  /-- most significant bit first -/
  | msbFirst
deriving DecidableEq, Repr

/-- The hardware-path bus state (R35). -/
structure Spi where
  /-- the bus is open -/
  isOpen : Bool
  /-- the clock divider -/
  divider : Reg Nat
  /-- the bit order -/
  bitOrder : Reg BitOrder
  /-- the SPI mode -/
  mode : Reg Nat
  /-- the selected chip-select line -/
  cs : Reg (Fin 2)
  /-- the active level of chip-select -/
  csPolarity : Reg Level
deriving DecidableEq, Repr

/-- The event alphabet (R11). -/
inductive Event where
  /-- line `id` becomes a digital output -/
  | configureOutput (id : LineId)
  /-- output line `id` is driven to `level` -/
  | setLine (id : LineId) (level : Level)
  /-- wait at least `n` microseconds -/
  | delayMicros (n : Nat)
  /-- wait at least `n` milliseconds -/
  | delayMillis (n : Nat)
  /-- open the serial-peripheral bus -/
  | spiOpen
  /-- release the serial-peripheral bus -/
  | spiClose
  /-- set the clock divider -/
  | spiSetDivider (v : Nat)
  /-- set the bit order -/
  | spiSetBitOrder (order : BitOrder)
  /-- set the SPI mode -/
  | spiSetMode (mode : Nat)
  /-- select chip-select line `i` -/
  | spiSelectCS (i : Fin 2)
  /-- set the active level of chip-select line `i` -/
  | spiSetCSPolarity (i : Fin 2) (level : Level)
  /-- one half-duplex transfer of the two bytes -/
  | spiTransfer (addr data : Byte)
deriving DecidableEq, Repr

/-- One delivered register write (R36). -/
structure Frame where
  /-- the register address -/
  addr : Byte
  /-- the data byte -/
  data : Byte
deriving DecidableEq, Repr

/-- The chip's register array as the block's one memory (R38): (code, byte) pairs, codes strictly rising; an
unlisted code holds no value (R53, log 7). -/
abbrev Memory := List Host.Cell

/-- What the host presents to the block, or a frame that reaches the chip (log 3, log 4). -/
inductive Input where
  /-- the boolean result of the external bus-init call (R201, R207; log 15) -/
  | busInit (ready : Bool)
  /-- an encoded instruction: a CMD at the command port, a FRAME16 at the chip -/
  | present (e : Encoded)
deriving DecidableEq, Repr

/-- The whole machine. -/
structure State where
  /-- the transport configuration: `hardwareActive` and the path's parameters (R21 to R23) -/
  transport : Transport
  /-- `commDelay` in microseconds (R24) -/
  commDelay : CommDelay
  /-- `session` (R25) -/
  session : Session
  /-- `digitCount` (R26) -/
  digitCount : Reg Byte
  /-- `decodeMode` (R27) -/
  decodeMode : Reg Byte
  /-- `intensity` (R28) -/
  intensity : Reg Byte
  /-- `shutdown`, the boolean and not the register value (R29) -/
  shutdown : Reg Bool
  /-- `displayTest` (R30) -/
  displayTest : Reg Bool
  /-- `busy` (R31) -/
  busy : Bool
  /-- `SR`, the frame shift register (R32) -/
  sr : Reg FrameWord
  /-- `pos`, the engine position (R33) -/
  pos : EnginePos
  /-- the software-path lines (R34) -/
  lines : Lines
  /-- the hardware-path bus (R35) -/
  spi : Spi
  /-- the event trace (R36) -/
  events : List Event
  /-- the frame trace (R36) -/
  frames : List Frame
  /-- the values returned to the host, oldest first (R145; log 16) -/
  returns : List CommDelay
  /-- the chip's registers (R38) -/
  sink : Memory
  /-- `busReady`, supplied by the host (R48, R201; log 15) -/
  busReady : Bool
  /-- what the host presents next, oldest first (log 4) -/
  pending : List Input
  /-- the MODEL's own counter of free values, not the spec's (log 8) -/
  freeCount : Nat
deriving DecidableEq, Repr

/-- Why the machine stops with a fault: never. The set of exceptions is empty and there is no fault outcome
(R13, R200, R206), so this type has no constructor (log 32). -/
inductive Fault where
deriving DecidableEq, Repr

/-- Why a presentation has no meaning. The first ten are the complete list of R219; each errs toward unprovable,
so each is safe: the state is as it was and the run ends (log 22). -/
inductive Refusal where
  /-- `BadConstruct`: RESET_SW with two equal lines, RESET_HW with a `csIndex` other than 0 and 1. Safe. -/
  | badConstruct
  /-- `BusNotReady`: an event-emitting command with `busReady` false. Safe. -/
  | busNotReady
  /-- `WrongSession`: a command outside the states of R211. Safe. -/
  | wrongSession
  /-- `InternalOnly`: BEGIN_SESSION or END_SESSION presented by the host. Safe. -/
  | internalOnly
  /-- `BadDigitCount`: INITIALIZE with `digitCount` outside 1..8. Safe. -/
  | badDigitCount
  /-- `BadDecodeMode`: INITIALIZE with a mode byte other than the two constants. Safe. -/
  | badDecodeMode
  /-- `DigitIndexTooLarge`: SET_SEGMENTS or DISPLAY_CHAR with `digitIndex` 8 or more. Safe. -/
  | digitIndexTooLarge
  /-- `NegativeDigit`: DISPLAY_TEXT_ALIGNED, Right, an item's index below 0. Safe. -/
  | negativeDigit
  /-- `ZeroFieldWidth`: DISPLAY_TWO_FIELDS with a field width of 0. Safe. -/
  | zeroFieldWidth
  /-- `UnknownCommand`: a command code not in R104, or an alignment code above 2. Safe. -/
  | unknownCommand
  /-- Raised by the step for command bytes whose operands do not have the layout of log 2 (log 27). Safe. -/
  | malformedCommand
  /-- Raised by the step for a frame at the chip whose code the document does not define (R46; log 29). Safe. -/
  | undefinedFrameCode
  /-- Raised by a command presented while `busy` is true: it is not accepted (R31; log 18). Safe. -/
  | busy
  /-- Raised by `exec` alone, for an instruction that has no meaning yet. Safe. -/
  | notModelled (mnemonic : String)
deriving DecidableEq, Repr

/-- A step's answer. -/
abbrev Answer := Host.Outcome State Fault Refusal

/-- A line the block has not touched (R34). -/
def Line.untouched : Line := { dir := .unknown, level := .unknown }

/-- The three lines as construction leaves them (R34, R231). -/
def Lines.untouched : Lines := { clk := Line.untouched, cs := Line.untouched, din := Line.untouched }

/-- The bus state as construction leaves it (R35, R52). -/
def Spi.closed : Spi :=
  { isOpen := false, divider := Reg.unset 0, bitOrder := Reg.unset .msbFirst, mode := Reg.unset 0,
    cs := Reg.unset 0, csPolarity := Reg.unset .low }

/-- The state right after reset: the RESET_SW column of R52 with the line identifiers 11, 8 and 10 of R130's
example (DESIGN CHOICE, log 5), the sink without values (R53), nothing presented. -/
def State.reset : State :=
  { transport := .software 11#8 8#8 10#8
    commDelay := 0#16
    session := .uninitialized
    digitCount := Reg.unset 0#8
    decodeMode := Reg.unset 0#8
    intensity := Reg.unset 0#8
    shutdown := Reg.unset false
    displayTest := Reg.unset false
    busy := false
    sr := Reg.unset 0#16
    pos := .idle
    lines := Lines.untouched
    spi := Spi.closed
    events := []
    frames := []
    returns := []
    sink := []
    busReady := true
    pending := []
    freeCount := 0 }

end Sys2Proof.Machine
end

