-- ==== Sys2Proof/Machine/Ops.lean ====
section
/-! DEFINITION. The named operations over the chip's registers, the event trace, the lines, the bus and the
block's registers; construction, session begin and end, and the frame write. There is no exception to take and
none to return from: the sets are empty (R200, R204, R206, R207), so no such operation stands here. -/

namespace Sys2Proof.Machine

/-! ### The chip's registers as memory -/

/-- The codes a frame can store to (R38): 0x01..0x0C and 0x0F, ascending. -/
def storableCodes : List Nat := [1, 2, 3, 4, 5, 6, 7, 8, 9, 10, 11, 12, 15]

/-- What register `code` holds; `none` where it holds no value (R38, R53). -/
def memRead : Memory → Nat → Option Byte
  | [], _ => none
  | (c, b) :: m, code => if c = code then some b else memRead m code

/-- The memory with `byte` at `code`, its codes kept strictly rising (log 7). -/
def memWrite : Memory → Nat → Byte → Memory
  | [], code, byte => [(code, byte)]
  | (c, b) :: m, code, byte =>
    if code < c then (code, byte) :: (c, b) :: m
    else if code = c then (code, byte) :: m
    else (c, b) :: memWrite m code byte

/-- Every code of the memory is above `low`, and the codes rise strictly. -/
def memRising : Nat → Memory → Bool
  | _, [] => true
  | low, (c, _) :: m => decide (low < c) && memRising c m

/-- The memory's canonical form: codes strictly rising from above 0, each one that a frame can store to. No entry
can equal what an unlisted code reads as, since that is no value (log 7). -/
def memWf (m : Memory) : Bool := memRising 0 m && m.all fun cell => decide (cell.1 ∈ storableCodes)

/-- A memory built anew from what each storable code holds. -/
def memFrom (f : Nat → Option Byte) : List Nat → Memory
  | [] => []
  | c :: cs =>
    match f c with
    | some b => (c, b) :: memFrom f cs
    | none => memFrom f cs

/-- The chip receives a frame (R38, R39, R46, R147): code 0x00 changes nothing; a defined code stores the byte;
after any other code every register holds a free value (log 8). -/
def chipReceive (addr data : Byte) (s : State) : State :=
  if addr = 0x00#8 then s
  else if addr.toNat ∈ storableCodes then { s with sink := memWrite s.sink addr.toNat data }
  else
    { s with
      sink := memFrom (Config.freeSink s.freeCount s.sink addr data) storableCodes
      freeCount := s.freeCount + 1 }

/-! ### The event trace and what it folds to -/

/-- A line's state after an event: `configureOutput` and `setLine` on its own identifier write it (R34). -/
def lineAfter (id : LineId) (e : Event) (l : Line) : Line :=
  match e with
  | .configureOutput i => if i = id then { l with dir := .output } else l
  | .setLine i v => if i = id then { l with level := .driven v } else l
  | _ => l

/-- The three lines after an event; the hardware path has none (R34). -/
def linesAfter (t : Transport) (e : Event) (ls : Lines) : Lines :=
  match t with
  | .software clk cs din =>
    { clk := lineAfter clk e ls.clk, cs := lineAfter cs e ls.cs, din := lineAfter din e ls.din }
  | .hardware _ _ => ls

/-- The bus state after an event (R35). -/
def spiAfter (e : Event) (p : Spi) : Spi :=
  match e with
  | .spiOpen => { p with isOpen := true }
  | .spiClose => { p with isOpen := false }
  | .spiSetDivider v => { p with divider := Reg.stored v }
  | .spiSetBitOrder o => { p with bitOrder := Reg.stored o }
  | .spiSetMode m => { p with mode := Reg.stored m }
  | .spiSelectCS i => { p with cs := Reg.stored i }
  | .spiSetCSPolarity _ l => { p with csPolarity := Reg.stored l }
  | _ => p

/-- The lines after a list of events. -/
def linesAfterAll (t : Transport) (es : List Event) (ls : Lines) : Lines :=
  es.foldl (fun acc e => linesAfter t e acc) ls

/-- The bus state after a list of events. -/
def spiAfterAll (es : List Event) (p : Spi) : Spi := es.foldl (fun acc e => spiAfter e acc) p

/-- Emit events in order: each is appended to the trace (R10, R11) and takes its effect on the lines or the bus
(R34, R35). This is the only operation that writes the trace, the lines or the bus. -/
def emitAll (es : List Event) (s : State) : State :=
  { s with
    events := s.events ++ es
    lines := linesAfterAll s.transport es s.lines
    spi := spiAfterAll es s.spi }

/-! ### The block's registers -/

/-- `S.busy <- b` (R31). -/
def setBusy (b : Bool) (s : State) : State := { s with busy := b }

/-- `S.session <- v` (R25). -/
def setSession (v : Session) (s : State) : State := { s with session := v }

/-- `S.digitCount <- n` (R26). -/
def storeDigitCount (n : Byte) (s : State) : State := { s with digitCount := Reg.stored n }

/-- `S.decodeMode <- m` (R27). -/
def storeDecodeMode (m : Byte) (s : State) : State := { s with decodeMode := Reg.stored m }

/-- `S.intensity <- v` (R28). -/
def storeIntensity (v : Byte) (s : State) : State := { s with intensity := Reg.stored v }

/-- `S.shutdown <- on` (R29). -/
def storeShutdown (on : Bool) (s : State) : State := { s with shutdown := Reg.stored on }

/-- `S.displayTest <- on` (R30). -/
def storeDisplayTest (on : Bool) (s : State) : State := { s with displayTest := Reg.stored on }

/-- `S.commDelay <- us` (R144). -/
def storeCommDelay (us : CommDelay) (s : State) : State := { s with commDelay := us }

/-- `S.SR <- w` (R137). -/
def loadShift (w : FrameWord) (s : State) : State := { s with sr := Reg.stored w }

/-- `S.pos <- p` (R33). -/
def setPos (p : EnginePos) (s : State) : State := { s with pos := p }

/-- `S.frames <- S.frames ++ [(addr, data)]` (R136, R147). -/
def recordFrame (addr data : Byte) (s : State) : State := { s with frames := s.frames ++ [⟨addr, data⟩] }

/-- A value goes back to the host (R145; log 16). -/
def returnToHost (v : CommDelay) (s : State) : State := { s with returns := s.returns ++ [v] }

/-! ### Construction -/

/-- Reset by construction (R52, R130, R131, R230): every field of the block as R52 gives it, on the path `t`. The
chip's registers are not reset (R210), and what is the host's stays (log 19). -/
def construct (t : Transport) (s : State) : State :=
  { State.reset with
    transport := t
    sink := s.sink
    busReady := s.busReady
    pending := s.pending
    freeCount := s.freeCount }

/-! ### Session begin and end -/

/-- The divider the hardware path sets at session begin (R133): the fallback when the request is not positive. -/
def dividerFor (kHz : Int32Word) : Nat :=
  if 0 < kHz.toInt then Config.dividerOf kHz else Config.fallbackDivider

/-- The six events of BEGIN_SESSION on either path, in the order of R132 and R133 (log 20). -/
def beginEvents : Transport → List Event
  | .software clk cs din =>
    [.configureOutput clk, .configureOutput cs, .configureOutput din,
      .setLine clk .low, .setLine cs .low, .setLine din .low]
  | .hardware kHz i =>
    [.spiOpen, .spiSetDivider (dividerFor kHz), .spiSetBitOrder .msbFirst, .spiSetMode 0, .spiSelectCS i,
      .spiSetCSPolarity i .low]

/-- The events of END_SESSION: three on the software path (R134), one on the hardware path (R135). -/
def endEvents : Transport → List Event
  | .software clk cs din => [.setLine clk .low, .setLine cs .low, .setLine din .low]
  | .hardware _ _ => [.spiClose]

/-- BEGIN_SESSION as a micro-operation (R132, R133). -/
def sessionBegin (s : State) : State := emitAll (beginEvents s.transport) s

/-- END_SESSION as a micro-operation (R134, R135). -/
def sessionEnd (s : State) : State := emitAll (endEvents s.transport) s

/-! ### The bit engine of the software path -/

/-- The position after one event: one phase on, then one bit down, then idle (R33). -/
def posNext : EnginePos → EnginePos
  | .idle => .idle
  | .cell k .data => .cell k .rise
  | .cell k .rise => .cell k .delayHigh
  | .cell k .delayHigh => .cell k .fall
  | .cell k .fall => .cell k .delayLow
  | .cell ⟨0, _⟩ .delayLow => .idle
  | .cell ⟨k + 1, h⟩ .delayLow => .cell ⟨k, Nat.lt_of_succ_lt h⟩ .data

/-- The event of a phase of bit `k` of the shift register (R138). -/
def cellEvent (clk din : LineId) (delay : CommDelay) (sr : FrameWord) (k : Fin 16) : Phase → Event
  | .data => .setLine din (Level.ofBit (sr.getLsbD k))
  | .rise => .setLine clk .high
  | .delayHigh => .delayMicros delay.toNat
  | .fall => .setLine clk .low
  | .delayLow => .delayMicros delay.toNat

/-- Run the engine for at most `n` events: the events it emits and where it stands afterwards (R33, R138). -/
def engineRun (clk din : LineId) (delay : CommDelay) (sr : FrameWord) : Nat → EnginePos → List Event × EnginePos
  | 0, p => ([], p)
  | _ + 1, .idle => ([], .idle)
  | n + 1, .cell k ph =>
    let rest := engineRun clk din delay sr n (posNext (.cell k ph))
    (cellEvent clk din delay sr k ph :: rest.1, rest.2)

/-- Where a frame's shifting starts: the data phase of bit 15 (R33, R137). -/
def posStart : EnginePos := .cell 15 .data

/-- Shift the whole register out, from where the engine stands (R137): 16 cells of five events. -/
def shiftOut (clk din : LineId) (s : State) : State :=
  let run := engineRun clk din s.commDelay s.sr.val 80 s.pos
  setPos run.2 (emitAll run.1 s)

/-! ### The frame write -/

/-- `frameSW` (R137): load, assert chip-select, sixteen cells, deassert. -/
def frameSW (clk cs din : LineId) (addr data : Byte) (s : State) : State :=
  emitAll [.setLine cs Config.csActive.other]
    (shiftOut clk din
      (setPos posStart
        (emitAll [.setLine cs Config.csActive]
          (loadShift (frameWord addr data) s))))

/-- `frameHW` (R142): one transfer; the delay register is not read. -/
def frameHW (addr data : Byte) (s : State) : State := emitAll [.spiTransfer addr data] s

/-- The frame on the instance's path (R136). -/
def frameOnPath (addr data : Byte) (s : State) : State :=
  match s.transport with
  | .software clk cs din => frameSW clk cs din addr data s
  | .hardware _ _ => frameHW addr data s

/-- `writeFrame(addr, data)` as every command calls it (R77, R136, R147): the events of one frame, one entry of the
frame trace, and the chip's receipt of it, which is assumed to arrive (log 21). -/
def writeFrame (addr data : Byte) (s : State) : State :=
  chipReceive addr data (recordFrame addr data (frameOnPath addr data s))

/-- A sequence of frame writes, in order (R71, R110). -/
def writeFrames (fs : List Frame) (s : State) : State := fs.foldl (fun acc f => writeFrame f.addr f.data acc) s

end Sys2Proof.Machine
end

