-- ==== Sys2Proof/Machine/Operands.lean ====
section
/-! DEFINITION. Operand assembly (R95 to R101), the font lookup (R180, R181), the content items and the
effective length of a text (R183, R184), where a text's items go (R185, R186) and number formatting (R187). -/

namespace Sys2Proof.Machine

/-! ### Register operands -/

/-- The register code of a digit index: `digitIndex + 1` (R61, R95). -/
def digitRegister (digitIndex : Byte) : Byte := digitIndex + 1#8

/-- The scan-limit operand: `digitCount - 1` (R96). -/
def scanLimitOperand (digitCount : Byte) : Byte := digitCount - 1#8

/-- The brightness operand: a clamp at 0x0F, not a mask (R97). -/
def brightnessOperand (level : Byte) : Byte := if level.toNat ≤ 0x0F then level else 0x0F#8

/-- The shutdown operand, inverted: 0 engages shutdown (R98). -/
def shutdownOperand (on : Bool) : Byte := if on then 0x00#8 else 0x01#8

/-- The display-test operand, not inverted (R99). -/
def displayTestOperand (on : Bool) : Byte := if on then 0x01#8 else 0x00#8

/-- A digit index that can be written: 0..7 (R95; 92_eei_decisions.md D10). -/
def digitIndexLegal (digitIndex : Byte) : Bool := decide (digitIndex.toNat < 8)

/-- A digit count INITIALIZE accepts: 1..8 (R161; 92_eei_decisions.md D11). -/
def digitCountLegal (n : Byte) : Bool := decide (1 ≤ n.toNat ∧ n.toNat ≤ 8)

/-- A decode mode INITIALIZE accepts (R161; 92_eei_decisions.md D11). -/
def decodeModeLegal (m : Byte) : Bool := decide (m = Config.decodeNone ∨ m = Config.decodeCodeB)

/-- Three line identifiers RESET_SW accepts (R130; 92_eei_decisions.md D17). -/
def linesLegal (clk cs din : LineId) : Bool := decide (clk ≠ cs ∧ clk ≠ din ∧ cs ≠ din)

/-- The chip-select line of an index operand, 0 or 1 (R131; 92_eei_decisions.md D17). -/
def csLineOf (i : Byte) : Option (Fin 2) := if h : i.toNat < 2 then some ⟨i.toNat, h⟩ else none

/-- The frames that write 0x00 to registers 1..`n`, ascending (R162; log 20). -/
def clearFrames (n : Nat) : List Frame := (List.range n).map fun r => ⟨BitVec.ofNat 8 (r + 1), 0x00#8⟩

/-! ### Font -/

/-- The glyph of a character code: the font's entry on 0x20..0x7A, blank elsewhere (R101, R181). -/
def glyph (c : Byte) : Byte :=
  if 0x20 ≤ c.toNat ∧ c.toNat ≤ 0x7A then (Config.font c).zeroExtend 8 else 0x00#8

/-- The segment byte of a content item: the glyph, with bit 7 for the decimal point (R100, R181). -/
def segmentByte (c : Byte) (dp : Bool) : Byte := glyph c ||| (if dp then 0x80#8 else 0x00#8)

/-! ### Texts -/

/-- `'.'` (42_content_rendering.md, head). -/
def charDot : Byte := 0x2E#8

/-- `' '` (42_content_rendering.md, head). -/
def charSpace : Byte := 0x20#8

/-- `'0'` (42_content_rendering.md, head). -/
def charZero : Byte := 0x30#8

/-- `'-'` (42_content_rendering.md, head). -/
def charMinus : Byte := 0x2D#8

/-- A content item: a character and whether a decimal point is attached (R183). -/
structure Item where
  /-- the character -/
  char : Byte
  /-- the attached decimal point -/
  dp : Bool
deriving DecidableEq, Repr

/-- The content items of a text, one left-to-right pass (R183). -/
def textItems : List Byte → List Item
  | [] => []
  | [c] => [⟨c, false⟩]
  | c :: d :: rest =>
    if c ≠ charDot ∧ d = charDot then ⟨c, true⟩ :: textItems rest
    else ⟨c, false⟩ :: textItems (d :: rest)

/-- The effective length of a text on `n` digits (R184): its characters other than `'.'`, capped at `n`. -/
def effLen (t : List Byte) (n : Nat) : Nat := min (t.countP (· != charDot)) n

/-- Where the items of an aligned text go (R185): item number `pos` goes to digit `start - 1 - pos`, while
`pos < n`; `none` where that index is below 0 (92_eei_decisions.md D23). -/
def alignedFrames (start n : Nat) : Nat → List Item → Option (List Frame)
  | _, [] => some []
  | pos, it :: rest =>
    if pos < n then
      if pos < start then
        match alignedFrames start n (pos + 1) rest with
        | some fs => some (⟨digitRegister (BitVec.ofNat 8 (start - 1 - pos)), segmentByte it.char it.dp⟩ :: fs)
        | none => none
      else none
    else some []

/-- Where the items of an unaligned text go (R186): `d + 1` digits are left, the next item goes to digit `d`. -/
def unalignedFrames : Nat → List Item → List Frame
  | 0, _ => []
  | _ + 1, [] => []
  | d + 1, it :: rest =>
    ⟨digitRegister (BitVec.ofNat 8 d), segmentByte it.char it.dp⟩ :: unalignedFrames d rest

/-! ### Numbers -/

/-- The shortest decimal numeral of `n`, for `n` below `10 ^ fuel` (R187). -/
def decimalDigits : Nat → Nat → List Byte
  | 0, _ => []
  | fuel + 1, n =>
    if n < 10 then [charZero + BitVec.ofNat 8 n]
    else decimalDigits fuel (n / 10) ++ [charZero + BitVec.ofNat 8 (n % 10)]

/-- `dec` of R187: the numeral of the absolute value; ten digits hold every 32-bit magnitude. -/
def magnitudeDigits (v : Int32Word) : List Byte := decimalDigits 10 v.toInt.natAbs

/-- `sign` of R187. -/
def signChars (v : Int32Word) : List Byte := if v.toInt < 0 then [charMinus] else []

/-- `formatInt(v, W, al)` (R187): pads to the minimum width, never shortens. -/
def formatInt (v : Int32Word) (width : Nat) (al : TextAlignment) : List Byte :=
  let sign := signChars v
  let dec := magnitudeDigits v
  let pad := width - sign.length - dec.length
  match al with
  | .right => List.replicate pad charSpace ++ sign ++ dec
  | .left => sign ++ dec ++ List.replicate pad charSpace
  | .rightZeros => sign ++ List.replicate pad charZero ++ dec

end Sys2Proof.Machine
end

