-- ==== Sys2Proof/Machine/Flags.lean ====
section
/-! DEFINITION. The block has no condition codes and no flag is written as a side effect (R37). What stands here is
the complete list of its boolean state, as R37 gives it, and the tests of it that decide whether a command is
accepted (R31, R160, R205, R211): what stands for mode checks. -/

namespace Sys2Proof.Machine

/-- `S.hardwareActive` (R21): which path the instance uses. -/
def hardwareActive (s : State) : Bool :=
  match s.transport with
  | .software _ _ _ => false
  | .hardware _ _ => true

/-- Why a command that needs session state `need` is not accepted, in the order of R205: busy (R31, log 18), then
`busReady`, then the session (log 23). `none` where it is accepted. -/
def admission (need : Session) (s : State) : Option Refusal :=
  if s.busy then some .busy
  else if s.busReady = false then some .busNotReady
  else if s.session ≠ need then some .wrongSession
  else none

/-- Why a micro-operation is not run: only a command in progress invokes one, so a presentation while the block is
not busy is the host's (R106, R132, R134; log 17). DESIGN CHOICE: the host's presentation is InternalOnly before
`busReady` and the session are asked, where R205 suggests `busReady` first and calls the reason immaterial (log 23). -/
def microAdmission (need : Session) (s : State) : Option Refusal :=
  if s.busy = false then some .internalOnly
  else if s.busReady = false then some .busNotReady
  else if s.session ≠ need then some .wrongSession
  else none

/-- Run a command's body, busy from acceptance (R31, R160 c), or refuse it unchanged (R206). -/
def whenAdmitted (need : Session) (s : State) (body : State → Answer) : Answer :=
  match admission need s with
  | some r => .refused r
  | none => body (setBusy true s)

/-- The command's last event is out: no longer busy (R31). -/
def complete (s : State) : Answer := .next (setBusy false s)

end Sys2Proof.Machine
end

