-- ==== Sys2Proof/Machine/Content.lean ====
section
/-! DEFINITION. The content-rendering macro-operations (42_content_rendering.md). None reads the decode mode
(R190). -/

namespace Sys2Proof.Machine

/-- The digits a content command may use: `S.digitCount` (R26). -/
def digitsOf (s : State) : Nat := s.digitCount.val.toNat

/-- The body of DISPLAY_TEXT (R186), which the number commands use too. -/
def renderUnaligned (t : List Byte) (s : State) : State := writeFrames (unalignedFrames (digitsOf s) (textItems t)) s

/-- Write an aligned text's frames, or refuse the whole command where an index is negative (R185 e). -/
def renderPlaced (fs : Option (List Frame)) (s : State) : Answer :=
  match fs with
  | some fs => complete (writeFrames fs s)
  | none => .refused .negativeDigit

/-- DISPLAY_CHAR(digitIndex, asciiCode, decimalPoint) (R182). -/
def execDisplayChar (digitIndex asciiCode : Byte) (decimalPoint : Bool) (s : State) : Answer :=
  whenAdmitted .active s fun s =>
    if digitIndexLegal digitIndex then
      complete (writeFrame (digitRegister digitIndex) (segmentByte asciiCode decimalPoint) s)
    else .refused .digitIndexTooLarge

/-- DISPLAY_TEXT_ALIGNED(text, alignment) (R185); RightZeros returns at once (R107 b). -/
def execDisplayTextAligned (text : List Byte) (alignment : TextAlignment) (s : State) : Answer :=
  whenAdmitted .active s fun s =>
    match alignment with
    | .rightZeros => complete s
    | .left => renderPlaced (alignedFrames (digitsOf s) (digitsOf s) 0 (textItems text)) s
    | .right => renderPlaced (alignedFrames (effLen text (digitsOf s)) (digitsOf s) 0 (textItems text)) s

/-- DISPLAY_TEXT(text) (R186). -/
def execDisplayText (text : List Byte) (s : State) : Answer :=
  whenAdmitted .active s fun s => complete (renderUnaligned text s)

/-- DISPLAY_INTEGER(value, alignment) (R188). -/
def execDisplayInteger (value : Int32Word) (alignment : TextAlignment) (s : State) : Answer :=
  whenAdmitted .active s fun s => complete (renderUnaligned (formatInt value (digitsOf s) alignment) s)

/-- The text DISPLAY_TWO_FIELDS renders: both values formatted to half the digits, upper then lower (R189). -/
def twoFieldsText (upper lower : Int32Word) (digits : Nat) (al : TextAlignment) : List Byte :=
  formatInt upper (digits / 2) al ++ formatInt lower (digits / 2) al

/-- DISPLAY_TWO_FIELDS(upperValue, lowerValue, alignment) (R189): refused where the half width is 0. -/
def execDisplayTwoFields (upper lower : Int32Word) (alignment : TextAlignment) (s : State) : Answer :=
  whenAdmitted .active s fun s =>
    if digitsOf s / 2 = 0 then .refused .zeroFieldWidth
    else complete (renderUnaligned (twoFieldsText upper lower (digitsOf s) alignment) s)

end Sys2Proof.Machine
end

