-- ==== Sys2Proof/Machine/Frames.lean ====
section
/-! DEFINITION. The frame rows of the opcode table (format FRAME16, R103): what the addressed chip does when it
receives the frame (R38 to R45). A frame that reaches the chip this way is none the block sent: the block's traces do
not change (log 3). -/

namespace Sys2Proof.Machine

/-- NOOP (R39, R38): changes nothing at the chip, whatever the data byte. -/
def execNoop (data : Byte) (s : State) : Answer := .next (chipReceive 0x00#8 data s)

/-- DIGIT0 (R40, R38): the segment byte of digit 0 is stored. -/
def execDigit0 (data : Byte) (s : State) : Answer := .next (chipReceive 0x01#8 data s)

/-- DIGIT1 (R40, R38): the segment byte of digit 1 is stored. -/
def execDigit1 (data : Byte) (s : State) : Answer := .next (chipReceive 0x02#8 data s)

/-- DIGIT2 (R40, R38): the segment byte of digit 2 is stored. -/
def execDigit2 (data : Byte) (s : State) : Answer := .next (chipReceive 0x03#8 data s)

/-- DIGIT3 (R40, R38): the segment byte of digit 3 is stored. -/
def execDigit3 (data : Byte) (s : State) : Answer := .next (chipReceive 0x04#8 data s)

/-- DIGIT4 (R40, R38): the segment byte of digit 4 is stored. -/
def execDigit4 (data : Byte) (s : State) : Answer := .next (chipReceive 0x05#8 data s)

/-- DIGIT5 (R40, R38): the segment byte of digit 5 is stored. -/
def execDigit5 (data : Byte) (s : State) : Answer := .next (chipReceive 0x06#8 data s)

/-- DIGIT6 (R40, R38): the segment byte of digit 6 is stored. -/
def execDigit6 (data : Byte) (s : State) : Answer := .next (chipReceive 0x07#8 data s)

/-- DIGIT7 (R40, R38): the segment byte of digit 7 is stored. -/
def execDigit7 (data : Byte) (s : State) : Answer := .next (chipReceive 0x08#8 data s)

/-- DECODE_MODE (R41, R38): the mode byte is stored. -/
def execDecodeMode (data : Byte) (s : State) : Answer := .next (chipReceive 0x09#8 data s)

/-- INTENSITY (R42, R38): the brightness byte is stored. -/
def execIntensity (data : Byte) (s : State) : Answer := .next (chipReceive 0x0A#8 data s)

/-- SCAN_LIMIT (R43, R38): the scan-limit byte is stored. -/
def execScanLimit (data : Byte) (s : State) : Answer := .next (chipReceive 0x0B#8 data s)

/-- SHUTDOWN (R44, R38): the shutdown byte is stored; 0 engages shutdown. -/
def execShutdown (data : Byte) (s : State) : Answer := .next (chipReceive 0x0C#8 data s)

/-- DISPLAY_TEST (R45, R38): the test byte is stored; no digit register changes. -/
def execDisplayTest (data : Byte) (s : State) : Answer := .next (chipReceive 0x0F#8 data s)

end Sys2Proof.Machine
end

