-- ==== Sys2Proof/Machine/RegisterOps.lean ====
section
/-! DEFINITION. The register-writing operations of the Display Controller (41_register_ops.md). -/

namespace Sys2Proof.Machine

/-- The body of INITIALIZE (R161), in the order of 90_conflicts.md C1. -/
def initialiseBody (n m : Byte) (s : State) : State :=
  let s := storeDigitCount n s
  let s := sessionBegin s
  let s := emitAll [.delayMillis 50] s
  let s := setSession .active s
  let s := writeFrame 0x0B#8 (scanLimitOperand n) s
  let s := storeDecodeMode m (writeFrame 0x09#8 m s)
  let s := storeShutdown false (writeFrame 0x0C#8 (shutdownOperand false) s)
  let s := storeDisplayTest false (writeFrame 0x0F#8 (displayTestOperand false) s)
  let s := writeFrames (clearFrames n.toNat) s
  storeIntensity 0x08#8 (writeFrame 0x0A#8 0x08#8 s)

/-- INITIALIZE(digitCount, decodeMode) (R161): the only Uninitialized to Active transition. DESIGN CHOICE: where both
operands are out of range the refusal is BadDigitCount; R205 gives no order between two operands and calls the reason
immaterial (log 23). -/
def execInitialise (n m : Byte) (s : State) : Answer :=
  whenAdmitted .uninitialized s fun s =>
    if digitCountLegal n = false then .refused .badDigitCount
    else if decodeModeLegal m = false then .refused .badDecodeMode
    else complete (initialiseBody n m s)

/-- CLEAR (R162): 0x00 to registers 1..digitCount. -/
def execClear (s : State) : Answer :=
  whenAdmitted .active s fun s => complete (writeFrames (clearFrames s.digitCount.val.toNat) s)

/-- SET_SEGMENTS(digitIndex, rawByte) (R163): the byte verbatim; the index is not checked against `digitCount`. -/
def execSetSegments (digitIndex rawByte : Byte) (s : State) : Answer :=
  whenAdmitted .active s fun s =>
    if digitIndexLegal digitIndex then complete (writeFrame (digitRegister digitIndex) rawByte s)
    else .refused .digitIndexTooLarge

/-- SET_BRIGHTNESS(level) (R164): the clamped level, and its shadow. -/
def execSetBrightness (level : Byte) (s : State) : Answer :=
  whenAdmitted .active s fun s =>
    complete (storeIntensity (brightnessOperand level) (writeFrame 0x0A#8 (brightnessOperand level) s))

/-- SET_SHUTDOWN(on) (R165): the inverted operand, and the boolean as shadow. -/
def execSetShutdown (on : Bool) (s : State) : Answer :=
  whenAdmitted .active s fun s => complete (storeShutdown on (writeFrame 0x0C#8 (shutdownOperand on) s))

/-- SET_DISPLAY_TEST(on) (R166): not inverted. -/
def execSetDisplayTest (on : Bool) (s : State) : Answer :=
  whenAdmitted .active s fun s => complete (storeDisplayTest on (writeFrame 0x0F#8 (displayTestOperand on) s))

/-- END_OPERATIONS (R167): END_SESSION, then Ended; no frame. -/
def execEndOperations (s : State) : Answer :=
  whenAdmitted .active s fun s => complete (setSession .ended (sessionEnd s))

end Sys2Proof.Machine
end

