-- ==== Sys2Proof/Machine/Transport.lean ====
section
/-! DEFINITION. Construction, the session micro-operations, the frame write and the timing knob (40_transport.md). -/

namespace Sys2Proof.Machine

/-- RESET_SW(clk, cs, din) (R130): construction on the software path, refused unless the lines are distinct. It is
no command, so neither the session nor `busy` is asked (log 18). -/
def execResetSw (clk cs din : LineId) (s : State) : Answer :=
  if linesLegal clk cs din then .next (construct (.software clk cs din) s) else .refused .badConstruct

/-- RESET_HW(kHz, csIndex) (R131): construction on the hardware path, refused unless the index is 0 or 1. -/
def execResetHw (kHz : Int32Word) (csIndex : Byte) (s : State) : Answer :=
  match csLineOf csIndex with
  | some i => .next (construct (.hardware kHz i) s)
  | none => .refused .badConstruct

/-- BEGIN_SESSION (R132, R133): run by INITIALIZE alone, before the session is Active; from the host it is refused
(R106, R211; log 17). -/
def execBeginSession (s : State) : Answer :=
  match microAdmission .uninitialized s with
  | some r => .refused r
  | none => .next (sessionBegin s)

/-- END_SESSION (R134, R135): run by END_OPERATIONS alone, while the session is Active; from the host it is refused
(R106, R211; log 17). -/
def execEndSession (s : State) : Answer :=
  match microAdmission .active s with
  | some r => .refused r
  | none => .next (sessionEnd s)

/-- WRITE_FRAME(addr, data) (R136): any address, any data; no shadow is written. -/
def execWriteFrame (addr data : Byte) (s : State) : Answer :=
  whenAdmitted .active s fun s => complete (writeFrame addr data s)

/-- SET_COMM_DELAY(us) (R144): legal in every session state, no event. -/
def execSetCommDelay (us : CommDelay) (s : State) : Answer :=
  if s.busy then .refused .busy else .next (storeCommDelay us s)

/-- GET_COMM_DELAY (R145): the value goes to the host (log 16). -/
def execGetCommDelay (s : State) : Answer :=
  if s.busy then .refused .busy else .next (returnToHost s.commDelay s)

end Sys2Proof.Machine
end

