-- ==== Sys2Proof/Machine/Dispatch.lean ====
section
/-! DEFINITION. One arm per instruction. -/

namespace Sys2Proof.Machine

def exec (i : Instr) (s : State) : Host.Outcome State Fault Refusal :=
  match i with
  | .noop data => Sys2Proof.Machine.execNoop data s
  | .digit0 data => Sys2Proof.Machine.execDigit0 data s
  | .digit1 data => Sys2Proof.Machine.execDigit1 data s
  | .digit2 data => Sys2Proof.Machine.execDigit2 data s
  | .digit3 data => Sys2Proof.Machine.execDigit3 data s
  | .digit4 data => Sys2Proof.Machine.execDigit4 data s
  | .digit5 data => Sys2Proof.Machine.execDigit5 data s
  | .digit6 data => Sys2Proof.Machine.execDigit6 data s
  | .digit7 data => Sys2Proof.Machine.execDigit7 data s
  | .decodeMode data => Sys2Proof.Machine.execDecodeMode data s
  | .intensity data => Sys2Proof.Machine.execIntensity data s
  | .scanLimit data => Sys2Proof.Machine.execScanLimit data s
  | .shutdown data => Sys2Proof.Machine.execShutdown data s
  | .displayTest data => Sys2Proof.Machine.execDisplayTest data s
  | .resetSw clk cs din => Sys2Proof.Machine.execResetSw clk cs din s
  | .resetHw kHz csIndex => Sys2Proof.Machine.execResetHw kHz csIndex s
  | .beginSession => Sys2Proof.Machine.execBeginSession s
  | .endSession => Sys2Proof.Machine.execEndSession s
  | .writeFrame addr data => Sys2Proof.Machine.execWriteFrame addr data s
  | .setCommDelay us => Sys2Proof.Machine.execSetCommDelay us s
  | .getCommDelay => Sys2Proof.Machine.execGetCommDelay s
  | .initialise n m => Sys2Proof.Machine.execInitialise n m s
  | .clear => Sys2Proof.Machine.execClear s
  | .setSegments digitIndex rawByte => Sys2Proof.Machine.execSetSegments digitIndex rawByte s
  | .setBrightness level => Sys2Proof.Machine.execSetBrightness level s
  | .setShutdown on => Sys2Proof.Machine.execSetShutdown on s
  | .setDisplayTest on => Sys2Proof.Machine.execSetDisplayTest on s
  | .endOperations => Sys2Proof.Machine.execEndOperations s
  | .displayChar digitIndex asciiCode decimalPoint => Sys2Proof.Machine.execDisplayChar digitIndex asciiCode decimalPoint s
  | .displayTextAligned text alignment => Sys2Proof.Machine.execDisplayTextAligned text alignment s
  | .displayText text => Sys2Proof.Machine.execDisplayText text s
  | .displayInteger value alignment => Sys2Proof.Machine.execDisplayInteger value alignment s
  | .displayTwoFields upper lower alignment => Sys2Proof.Machine.execDisplayTwoFields upper lower alignment s

end Sys2Proof.Machine
end

