-- ==== Sys2Proof/Machine/Fetch.lean ====
section
/-! DEFINITION. From what is presented to an instruction: the decoder's rejections as the refusals of R219. -/

namespace Sys2Proof.Machine

/-- The refusal of a rejected presentation (R106, R219; logs 27 and 29). -/
def refusalOfReject : DecodeReject → Refusal
  | .noCode => .malformedCommand
  | .unknownCommand _ => .unknownCommand
  | .badAlignment _ => .unknownCommand
  | .badBoolean _ => .malformedCommand
  | .badOperands _ => .malformedCommand
  | .undefinedFrame _ => .undefinedFrameCode

/-- The host's presentation is taken off the list (log 4). -/
def takeInput (rest : List Input) (s : State) : State := { s with pending := rest }

/-- The external bus-init call reports its result (R201, R207; log 15). -/
def reportBus (ready : Bool) (s : State) : State := { s with busReady := ready }

/-- A presentation put before those that wait. -/
def presentFirst (e : Encoded) (s : State) : State := { s with pending := .present e :: s.pending }

end Sys2Proof.Machine
end

