-- ==== Sys2Proof/Machine/Step.lean ====
section
/-! DEFINITION. One step: the oldest presentation is taken and run; with none the block waits (log 4). -/

namespace Sys2Proof.Machine

/-- Take the oldest presentation and answer what it does. Nothing presented: the state stays. A bus-init result:
`busReady` takes it. An encoded instruction: it is decoded and executed, or refused by name.
DESIGN CHOICE: what does not decode (an unknown command code, an alignment code above 2) is refused before busy, `busReady`
and the session are asked; R205 calls the reason immaterial where several apply (log 23). -/
def step (s : State) : Host.Outcome State Fault Refusal :=
  match s.pending with
  | [] => .next s
  | .busInit ready :: rest => .next (reportBus ready (takeInput rest s))
  | .present e :: rest =>
    match decode e with
    | .ok i => exec i (takeInput rest s)
    | .error r => .refused (refusalOfReject r)

/-- The state with a table word presented next (log 4). -/
def State.withFetchWord (s : State) (nbits w : Nat) : State := presentFirst (tableEncoded nbits w) s

end Sys2Proof.Machine
end

