-- ==== Sys2Proof/Safety.lean ====
section
/-! DEFINITION. The vocabulary of the claims: the waveforms as the rules write them, durations, what a receiver
reads from the lines, which session each command needs, and the invariants of R49. Nothing here is called by the
machine. -/

namespace Sys2Proof.Safety

open Sys2Proof.Machine

/-! ### Waveforms -/

/-- `bitCell(b)` (R138): one bit, two delays. -/
def bitCell (clk din : LineId) (delay : Nat) (b : Bool) : List Event :=
  [.setLine din (Level.ofBit b), .setLine clk .high, .delayMicros delay, .setLine clk .low, .delayMicros delay]

/-- `shiftByte(v)` (R139): bit 7 first. -/
def shiftByte (clk din : LineId) (delay : Nat) (v : Byte) : List Event :=
  [7, 6, 5, 4, 3, 2, 1, 0].flatMap fun j => bitCell clk din delay (v.getLsbD j)

/-- `frameSW` as a list of events (R137): assert, address, data, deassert. -/
def softwareFrame (clk cs din : LineId) (delay : Nat) (f : Frame) : List Event :=
  .setLine cs Config.csActive :: (shiftByte clk din delay f.addr ++ shiftByte clk din delay f.data
    ++ [.setLine cs Config.csActive.other])

/-- The events of one frame on a path (R136, R137, R142). -/
def pathEvents (t : Transport) (delay : CommDelay) (f : Frame) : List Event :=
  match t with
  | .software clk cs din => softwareFrame clk cs din delay.toNat f
  | .hardware _ _ => [.spiTransfer f.addr f.data]

/-- The events of a sequence of frames (R71). -/
def traceOf (t : Transport) (delay : CommDelay) (fs : List Frame) : List Event := fs.flatMap (pathEvents t delay)

/-- The time an event takes at least, in microseconds (R212; 92_eei_decisions.md D8). -/
def microsOf : Event → Nat
  | .delayMicros n => n
  | .delayMillis n => 1000 * n
  | _ => 0

/-- The lower bound on the duration of a list of events (R250). -/
def lowerBound (es : List Event) : Nat := (es.map microsOf).sum

/-! ### What a receiver reads from the lines -/

/-- A receiver on the three lines: the levels it sees, the bits sampled since chip-select was asserted, the frames
taken. It samples the data line where the clock rises and takes a frame where chip-select is deasserted.
PRESUMED: both moments are 93_implementation_defined.md G6's, log 33; only claims use it. -/
structure Receiver where
  /-- the clock line -/
  clk : LineLevel
  /-- the chip-select line -/
  cs : LineLevel
  /-- the data line -/
  din : LineLevel
  /-- the bits sampled, first one first -/
  bits : List Bool
  /-- the frames taken, first one first -/
  got : List Frame
deriving DecidableEq, Repr

/-- A receiver that has seen nothing. -/
def Receiver.start : Receiver := { clk := .unknown, cs := .unknown, din := .unknown, bits := [], got := [] }

/-- The byte whose bits are listed most significant first (R63). -/
def byteOfBits (bits : List Bool) : Byte := BitVec.ofNat 8 (bits.foldl (fun n b => 2 * n + b.toNat) 0)

/-- The frame of sixteen bits, address first (R62); no frame of any other number of bits. -/
def frameOfBits (bits : List Bool) : List Frame :=
  if bits.length = 16 then [⟨byteOfBits (bits.take 8), byteOfBits (bits.drop 8)⟩] else []

/-- What the receiver does on an event. -/
def receiverNext (clk cs din : LineId) (r : Receiver) (e : Event) : Receiver :=
  match e with
  | .setLine id v =>
    if id = clk then
      { r with
        clk := .driven v
        bits := if r.clk = .driven .low ∧ v = .high then r.bits ++ [decide (r.din = .driven .high)] else r.bits }
    else if id = din then { r with din := .driven v }
    else if id = cs then
      if v = Config.csActive then
        { r with cs := .driven v, bits := if r.cs = .driven Config.csActive then r.bits else [] }
      else if r.cs = .driven Config.csActive then
        { r with cs := .driven v, got := r.got ++ frameOfBits r.bits, bits := [] }
      else { r with cs := .driven v }
    else r
  | _ => r

/-- The frames of the hardware path's transfers. -/
def transferOf : Event → Option Frame
  | .spiTransfer a d => some ⟨a, d⟩
  | _ => none

/-- The frames that a trace carries on a path. -/
def carriedFrames (t : Transport) (es : List Event) : List Frame :=
  match t with
  | .software clk cs din => (es.foldl (receiverNext clk cs din) Receiver.start).got
  | .hardware _ _ => es.filterMap transferOf

/-- The bits a receiver holds after a trace, of a frame not yet taken. -/
def leftoverBits (t : Transport) (es : List Event) : List Bool :=
  match t with
  | .software clk cs din => (es.foldl (receiverNext clk cs din) Receiver.start).bits
  | .hardware _ _ => []

/-! ### Rows of the opcode table -/

/-- The two formats of the opcode table. -/
inductive Format where
  /-- FRAME16: the row's match is on bits 15:8 -/
  | frame16
  /-- CMD: the row's match is on the 8-bit code -/
  | cmd
deriving DecidableEq, Repr

/-- The format and the code of an instruction's row (R103, R104). -/
def rowOf : Instr → Format × Byte
  | .noop _ => (.frame16, 0x00#8)
  | .digit0 _ => (.frame16, 0x01#8)
  | .digit1 _ => (.frame16, 0x02#8)
  | .digit2 _ => (.frame16, 0x03#8)
  | .digit3 _ => (.frame16, 0x04#8)
  | .digit4 _ => (.frame16, 0x05#8)
  | .digit5 _ => (.frame16, 0x06#8)
  | .digit6 _ => (.frame16, 0x07#8)
  | .digit7 _ => (.frame16, 0x08#8)
  | .decodeMode _ => (.frame16, 0x09#8)
  | .intensity _ => (.frame16, 0x0A#8)
  | .scanLimit _ => (.frame16, 0x0B#8)
  | .shutdown _ => (.frame16, 0x0C#8)
  | .displayTest _ => (.frame16, 0x0F#8)
  | .resetSw _ _ _ => (.cmd, 0x01#8)
  | .resetHw _ _ => (.cmd, 0x02#8)
  | .beginSession => (.cmd, 0x10#8)
  | .endSession => (.cmd, 0x11#8)
  | .writeFrame _ _ => (.cmd, 0x12#8)
  | .setCommDelay _ => (.cmd, 0x13#8)
  | .getCommDelay => (.cmd, 0x14#8)
  | .initialise _ _ => (.cmd, 0x20#8)
  | .clear => (.cmd, 0x21#8)
  | .setSegments _ _ => (.cmd, 0x22#8)
  | .setBrightness _ => (.cmd, 0x23#8)
  | .setShutdown _ => (.cmd, 0x24#8)
  | .setDisplayTest _ => (.cmd, 0x25#8)
  | .endOperations => (.cmd, 0x26#8)
  | .displayChar _ _ _ => (.cmd, 0x30#8)
  | .displayTextAligned _ _ => (.cmd, 0x31#8)
  | .displayText _ => (.cmd, 0x32#8)
  | .displayInteger _ _ => (.cmd, 0x33#8)
  | .displayTwoFields _ _ _ => (.cmd, 0x34#8)

/-- The codes a frame row matches (R103). -/
def frameCodes : List Nat := [0x00, 0x01, 0x02, 0x03, 0x04, 0x05, 0x06, 0x07, 0x08, 0x09, 0x0A, 0x0B, 0x0C, 0x0F]

/-- The codes a command row matches (R104), the two constructors among them. -/
def commandCodes : List Nat :=
  [0x01, 0x02, 0x10, 0x11, 0x12, 0x13, 0x14, 0x20, 0x21, 0x22, 0x23, 0x24, 0x25, 0x26, 0x30, 0x31, 0x32, 0x33, 0x34]

/-! ### Commands and sessions -/

/-- The session state a host command needs (R211); `none` for the timing knob, which every state accepts, and for
what is no host command: frames, constructors and micro-operations. -/
def neededSession : Instr → Option Session
  | .initialise _ _ => some .uninitialized
  | .writeFrame _ _ => some .active
  | .clear => some .active
  | .setSegments _ _ => some .active
  | .setBrightness _ => some .active
  | .setShutdown _ => some .active
  | .setDisplayTest _ => some .active
  | .endOperations => some .active
  | .displayChar _ _ _ => some .active
  | .displayTextAligned _ _ => some .active
  | .displayText _ => some .active
  | .displayInteger _ _ => some .active
  | .displayTwoFields _ _ _ => some .active
  | .noop _ => none
  | .digit0 _ => none
  | .digit1 _ => none
  | .digit2 _ => none
  | .digit3 _ => none
  | .digit4 _ => none
  | .digit5 _ => none
  | .digit6 _ => none
  | .digit7 _ => none
  | .decodeMode _ => none
  | .intensity _ => none
  | .scanLimit _ => none
  | .shutdown _ => none
  | .displayTest _ => none
  | .resetSw _ _ _ => none
  | .resetHw _ _ => none
  | .beginSession => none
  | .endSession => none
  | .setCommDelay _ => none
  | .getCommDelay => none

/-- A reset constructor (R130, R131). -/
def isConstructor : Instr → Bool
  | .resetSw _ _ _ => true
  | .resetHw _ _ => true
  | .noop _ => false
  | .digit0 _ => false
  | .digit1 _ => false
  | .digit2 _ => false
  | .digit3 _ => false
  | .digit4 _ => false
  | .digit5 _ => false
  | .digit6 _ => false
  | .digit7 _ => false
  | .decodeMode _ => false
  | .intensity _ => false
  | .scanLimit _ => false
  | .shutdown _ => false
  | .displayTest _ => false
  | .beginSession => false
  | .endSession => false
  | .writeFrame _ _ => false
  | .setCommDelay _ => false
  | .getCommDelay => false
  | .initialise _ _ => false
  | .clear => false
  | .setSegments _ _ => false
  | .setBrightness _ => false
  | .setShutdown _ => false
  | .setDisplayTest _ => false
  | .endOperations => false
  | .displayChar _ _ _ => false
  | .displayTextAligned _ _ => false
  | .displayText _ => false
  | .displayInteger _ _ => false
  | .displayTwoFields _ _ _ => false

/-- The block can accept a command that needs session state `need` (R31, R160). -/
def Ready (s : State) (need : Session) : Prop := s.busy = false ∧ s.busReady = true ∧ s.session = need

/-- A micro-operation can run: a command is in progress in session state `need` (R132, R134). -/
def InCommand (s : State) (need : Session) : Prop := s.busy = true ∧ s.busReady = true ∧ s.session = need

/-- A code the document gives the chip a register for (R69), other than the no-op. -/
def IsRegister (a : Byte) : Prop := a.toNat ∈ storableCodes

/-! ### What stays -/

/-- The fields no command but construction writes, and the host's side (R21 to R23, R49 a). -/
def SameSetting (s t : State) : Prop :=
  t.transport = s.transport ∧ t.busReady = s.busReady ∧ t.pending = s.pending

/-- The ControllerState shadows (R26 to R30). -/
def SameShadows (s t : State) : Prop :=
  t.digitCount = s.digitCount ∧ t.decodeMode = s.decodeMode ∧ t.intensity = s.intensity ∧
    t.shutdown = s.shutdown ∧ t.displayTest = s.displayTest

/-- The block's outputs, histories and frame engine (R32 to R36). -/
def SameOutputs (s t : State) : Prop :=
  t.events = s.events ∧ t.frames = s.frames ∧ t.lines = s.lines ∧ t.spi = s.spi ∧ t.sr = s.sr ∧ t.pos = s.pos

/-- Every register of the chip outside `codes` reads as before. -/
def SinkSameOutside (codes : List Nat) (s t : State) : Prop :=
  ∀ code, code ∉ codes → memRead t.sink code = memRead s.sink code

/-- The frames `fs` were delivered (R71, R136, R147): the frame trace and the event trace gained exactly them, on the
instance's path with its delay; the lines are what those events leave; the settings, the delay, the session, the
returned values and the bus stay; the block is no longer busy and an idle engine is idle again; on the hardware path the
lines, the shift register and the engine stay too. -/
structure Delivered (s : State) (fs : List Frame) (t : State) : Prop where
  frames : t.frames = s.frames ++ fs
  events : t.events = s.events ++ traceOf s.transport s.commDelay fs
  setting : SameSetting s t
  commDelay : t.commDelay = s.commDelay
  session : t.session = s.session
  returns : t.returns = s.returns
  busy : t.busy = false
  spi : t.spi = s.spi
  lines : t.lines = linesAfterAll s.transport (traceOf s.transport s.commDelay fs) s.lines
  engine : s.pos = .idle → t.pos = .idle
  hardware : hardwareActive s = true → t.lines = s.lines ∧ t.sr = s.sr ∧ t.pos = s.pos

/-- Nothing but the chip's registers and the free-value counter differs. -/
def OnlyChip (s t : State) : Prop := t = { s with sink := t.sink, freeCount := t.freeCount }

/-- `k` frames of a text: item `j` at register `top - j`, with its segment byte (R185, R186). -/
def PlacedFrom (top k : Nat) (items : List Item) (fs : List Frame) : Prop :=
  fs.length = k ∧ ∀ j it, j < k → items[j]? = some it →
    fs[j]? = some ⟨BitVec.ofNat 8 (top - j), segmentByte it.char it.dp⟩

/-- The number that decimal digits spell. -/
def spelled (ds : List Byte) : Nat := ds.foldl (fun n d => 10 * n + (d.toNat - 0x30)) 0

/-- `ds` is the shortest decimal numeral of `n` (R187): digits only, no leading zero but in "0" itself. -/
def IsNumeral (ds : List Byte) (n : Nat) : Prop :=
  ds ≠ [] ∧ (∀ d ∈ ds, 0x30 ≤ d.toNat ∧ d.toNat ≤ 0x39) ∧ spelled ds = n ∧
    (1 < ds.length → ds.head? ≠ some 0x30#8)

/-- The characters an item stands for in the text (R183). -/
def itemChars (it : Item) : List Byte := if it.dp then [it.char, charDot] else [it.char]

/-- How many events of a list are delays in microseconds. -/
def microDelays (es : List Event) : Nat := es.countP fun e => match e with | .delayMicros _ => true | _ => false

/-- How many events of a list set line `id`. -/
def setsOf (id : LineId) (es : List Event) : Nat :=
  es.countP fun e => match e with | .setLine l _ => l == id | _ => false

/-- `t` is the state R52 gives after a construction on path `p`, in a machine whose chip and host side are as in `s`
(R210, R231). -/
structure ConstructedOn (p : Transport) (s t : State) : Prop where
  transport : t.transport = p
  commDelay : t.commDelay = 0#16
  session : t.session = .uninitialized
  noShadow : t.digitCount.held = false ∧ t.decodeMode.held = false ∧ t.intensity.held = false ∧
    t.shutdown.held = false ∧ t.displayTest.held = false
  busy : t.busy = false
  engine : t.sr.held = false ∧ t.pos = .idle
  lines : t.lines = ⟨⟨.unknown, .unknown⟩, ⟨.unknown, .unknown⟩, ⟨.unknown, .unknown⟩⟩
  bus : t.spi.isOpen = false ∧ t.spi.divider.held = false ∧ t.spi.bitOrder.held = false ∧ t.spi.mode.held = false ∧
    t.spi.cs.held = false ∧ t.spi.csPolarity.held = false
  traces : t.events = [] ∧ t.frames = []
  chip : t.sink = s.sink
  host : t.busReady = s.busReady ∧ t.pending = s.pending

/-! ### Invariants -/

/-- Between commands (R31, R33): not busy, the engine idle. -/
def Quiet (s : State) : Prop := s.busy = false ∧ s.pos = .idle

/-- The memory's canonical form (log 7). -/
def SinkCanonical (s : State) : Prop := memWf s.sink = true

/-- The lines of the software path are pairwise distinct (R22). -/
def LinesDistinct (s : State) : Prop :=
  ∀ clk cs din, s.transport = .software clk cs din → clk ≠ cs ∧ clk ≠ din ∧ cs ≠ din

/-- R49 (b): in Uninitialized no shadow holds a value, both traces are empty and nothing was touched. -/
def FreshBeforeSession (s : State) : Prop :=
  s.session = .uninitialized →
    s.digitCount.held = false ∧ s.decodeMode.held = false ∧ s.intensity.held = false ∧
    s.shutdown.held = false ∧ s.displayTest.held = false ∧
    s.events = [] ∧ s.frames = [] ∧ s.lines = Lines.untouched ∧ s.spi = Spi.closed

/-- R49 (c): from Active on the shadows hold legal values. -/
def ShadowsLegal (s : State) : Prop :=
  s.session ≠ .uninitialized →
    s.digitCount.held = true ∧ 1 ≤ s.digitCount.val.toNat ∧ s.digitCount.val.toNat ≤ 8 ∧
    s.decodeMode.held = true ∧ (s.decodeMode.val = Config.decodeNone ∨ s.decodeMode.val = Config.decodeCodeB) ∧
    s.intensity.held = true ∧ s.intensity.val.toNat ≤ 0x0F ∧
    s.shutdown.held = true ∧ s.displayTest.held = true

/-- R49 (d): in Active on the software path the clock is low, chip-select is low before the first frame and at its
deasserted level after it, and all three lines are outputs. -/
def LinesAtRest (s : State) : Prop :=
  ∀ clk cs din, s.transport = .software clk cs din → s.session = .active →
    s.lines.clk.level = .driven .low ∧
    s.lines.cs.level = .driven (if s.frames = [] then .low else Config.csActive.other) ∧
    s.lines.clk.dir = .output ∧ s.lines.cs.dir = .output ∧ s.lines.din.dir = .output

/-- R234: in Active on the hardware path the bus is open with mode 0, MSB first, the select of the configuration,
active low. -/
def BusConfigured (s : State) : Prop :=
  ∀ kHz i, s.transport = .hardware kHz i → s.session = .active →
    s.spi.isOpen = true ∧ s.spi.mode = Reg.stored 0 ∧ s.spi.bitOrder = Reg.stored .msbFirst ∧
    s.spi.cs = Reg.stored i ∧ s.spi.csPolarity = Reg.stored .low ∧ s.spi.divider = Reg.stored (dividerFor kHz)

/-- R34: the lines and the bus are the fold of the event trace and carry nothing beyond it. -/
def TraceFolds (s : State) : Prop :=
  s.lines = linesAfterAll s.transport s.events Lines.untouched ∧ s.spi = spiAfterAll s.events Spi.closed

/-- The frame trace is what the event trace carries on the instance's path, with no bit of another frame left over. -/
def FramesCarried (s : State) : Prop :=
  s.frames = carriedFrames s.transport s.events ∧ leftoverBits s.transport s.events = []

/-- The invariant of the block between commands. -/
structure Inv (s : State) : Prop where
  quiet : Quiet s
  sinkCanonical : SinkCanonical s
  linesDistinct : LinesDistinct s
  fresh : FreshBeforeSession s
  shadows : ShadowsLegal s
  linesAtRest : LinesAtRest s
  bus : BusConfigured s
  folds : TraceFolds s

end Sys2Proof.Safety
end

