-- ==== Sys2Proof/Certificates/Slice0/Obligations.lean ====
section
/-! DEFINITION. The statements for the provers. Each docstring names the rules of spec/ it formalises. -/

open Sys2Proof Sys2Proof.Machine Sys2Proof.Safety

/-! ### Encodings -/

/-- Every well-formed instruction is decoded from its own encoding, every operand at every value (R90, R102 to R104).
The operand bytes' layout is the model's choice (log 2). -/
def Obligations.DecodeOfEncode : Prop :=
  ∀ i : Instr, i.wellFormed = true → decode (encode i) = .ok i

/-- Each encoded form has one meaning: what decodes to an instruction is that instruction's encoding, and the
instruction is well formed (R102 to R104). The operand bytes' layout is the model's choice (log 2). -/
def Obligations.EncodeOfDecode : Prop :=
  ∀ (e : Encoded) (i : Instr), decode e = .ok i → encode i = e ∧ i.wellFormed = true

/-- A frame word is its address byte above its data byte (R90, R94), and each decoded frame word is matched by its
own row on bits 15:8 (R103); a word with any other code decodes to nothing (R105). -/
def Obligations.FramesMatchOnTheAddressByte : Prop :=
  ∀ w : FrameWord,
    w.toNat = (frameAddr w).toNat * 256 + (frameData w).toNat ∧
    ((frameAddr w).toNat ∈ frameCodes →
      ∃ i, decode (.frame16 w) = .ok i ∧ rowOf i = (.frame16, frameAddr w)) ∧
    ((frameAddr w).toNat ∉ frameCodes → decode (.frame16 w) = .error (.undefinedFrame (frameAddr w)))

/-- Words written out from R90, R94 and R104 decode to what they stand for. The operand bytes' layout is the model's choice
(log 2). -/
def Obligations.SampleWordsDecode : Prop :=
  decode (.frame16 0x0A08#16) = .ok (.intensity 0x08#8) ∧
  decode (.frame16 0x04B0#16) = .ok (.digit3 0xB0#8) ∧
  decode (.frame16 0x0C01#16) = .ok (.shutdown 0x01#8) ∧
  decode (.cmd [0x12#8, 0x0A#8, 0x08#8]) = .ok (.writeFrame 0x0A#8 0x08#8) ∧
  decode (.cmd [0x24#8, 0x01#8]) = .ok (.setShutdown true) ∧
  decode (.cmd [0x31#8, 0x41#8, 0x2E#8, 0x00#8, 0x02#8]) = .ok (.displayTextAligned [0x41#8, 0x2E#8] .rightZeros) ∧
  decode (.cmd [0x33#8, 0xFF#8, 0xFF#8, 0xFF#8, 0xF9#8, 0x01#8]) = .ok (.displayInteger (-7#32) .right)

/-- A command code that is not in R104, or an alignment code above 2, is refused as UnknownCommand, and nothing runs
(R106, R219). Where operand bytes stand, how presentations wait, and that this refusal is named before busy, `busReady`
and the session are asked, are the model's choices (logs 2, 4 and 23). -/
def Obligations.UnknownCommandsRefused : Prop :=
  (∀ (s : State) (rest : List Input) (code : Byte) (ops : List Byte),
    s.pending = .present (.cmd (code :: ops)) :: rest → code.toNat ∉ commandCodes →
      step s = .refused .unknownCommand) ∧
  (∀ (s : State) (rest : List Input) (t : List Byte) (al : Byte),
    s.pending = .present (.cmd (0x31#8 :: (t ++ [0x00#8, al]))) :: rest → textOk t = true → 2 < al.toNat →
      step s = .refused .unknownCommand) ∧
  (∀ (s : State) (rest : List Input) (v : Int32Word) (al : Byte),
    s.pending = .present (.cmd (0x33#8 :: (encodeInt32 v ++ [al]))) :: rest → 2 < al.toNat →
      step s = .refused .unknownCommand) ∧
  (∀ (s : State) (rest : List Input) (u l : Int32Word) (al : Byte),
    s.pending = .present (.cmd (0x34#8 :: (encodeInt32 u ++ encodeInt32 l ++ [al]))) :: rest → 2 < al.toNat →
      step s = .refused .unknownCommand)

/-! ### The step -/

/-- A step takes the oldest presentation and runs the instruction it decodes to, with the presentation taken off the
list and nothing else changed. How presentations wait is the model's choice (log 4). -/
def Obligations.StepRunsDecodedInstruction : Prop :=
  ∀ (s : State) (e : Encoded) (rest : List Input) (i : Instr),
    s.pending = .present e :: rest → decode e = .ok i →
      step s = exec i { s with pending := rest }

/-- With nothing presented the block waits unchanged; a bus-init result writes `busReady` alone, so a block that was
not ready accepts an INITIALIZE presented after a later success (R201, R207). That presentations wait in a list and that
`busReady` stands in State are the model's choices (logs 4 and 15), and so is the layout of INITIALIZE's operand bytes,
which the statement takes from the encoder (log 2). -/
def Obligations.StepWaitsOrTakesTheBusResult : Prop :=
  (∀ s : State, s.pending = [] → step s = .next s) ∧
  (∀ (s : State) (ready : Bool) (rest : List Input), s.pending = .busInit ready :: rest →
    step s = .next { s with pending := rest, busReady := ready }) ∧
  (∀ (s : State) (rest : List Input) (n m : Byte),
    s.pending = .busInit true :: .present (encode (.initialise n m)) :: rest → s.busy = false →
      s.session = .uninitialized → digitCountOk n = true → decodeModeOk m = true →
      ∃ u t, step s = .next u ∧ step u = .next t ∧ t.session = .active)

/-! ### Reset and construction -/

/-- State.reset is a software-path construction of R52: nothing touched, nothing held, the chip without values
(R53). Which constructor and which line numbers is the model's choice (log 5). -/
def Obligations.ResetIsAFreshInstance : Prop :=
  ConstructedOn (.software 11#8 8#8 10#8) State.reset State.reset ∧ ∀ code, memRead State.reset.sink code = none

/-- RESET_SW on distinct lines answers the RESET_SW column of R52, and RESET_HW on an index of 0 or 1 the RESET_HW
column, from any state; no event is emitted and the chip keeps its registers (R52, R130, R131, R210). -/
def Obligations.ConstructionFollowsTheResetTable : Prop :=
  (∀ (s : State) (clk cs din : LineId), clk ≠ cs → clk ≠ din → cs ≠ din →
    ∃ t, exec (.resetSw clk cs din) s = .next t ∧ ConstructedOn (.software clk cs din) s t ∧
      hardwareActive t = false) ∧
  (∀ (s : State) (kHz : Int32Word) (i : Byte) (line : Fin 2), i.toNat = line.val →
    ∃ t, exec (.resetHw kHz i) s = .next t ∧ ConstructedOn (.hardware kHz line) s t ∧ hardwareActive t = true)

/-- A construction with two equal lines, or a chip-select index above 1, is refused as BadConstruct (R219). -/
def Obligations.BadConstructionsRefused : Prop :=
  (∀ (s : State) (clk cs din : LineId), (clk = cs ∨ clk = din ∨ cs = din) →
    exec (.resetSw clk cs din) s = .refused .badConstruct) ∧
  (∀ (s : State) (kHz : Int32Word) (i : Byte), 1 < i.toNat → exec (.resetHw kHz i) s = .refused .badConstruct)

/-! ### Session micro-operations -/

/-- BEGIN_SESSION inside INITIALIZE, software path: the six events of R132 in order, three outputs at level 0, nothing
else. That a micro-operation runs where `busy` is true is the model's reading (log 17). -/
def Obligations.BeginSessionOnTheSoftwarePath : Prop :=
  ∀ (s : State) (clk cs din : LineId), InCommand s .uninitialized → s.transport = .software clk cs din →
    clk ≠ cs → clk ≠ din → cs ≠ din →
    exec .beginSession s = .next
      { s with
        events := s.events ++ [.configureOutput clk, .configureOutput cs, .configureOutput din,
          .setLine clk .low, .setLine cs .low, .setLine din .low]
        lines := ⟨⟨.output, .driven .low⟩, ⟨.output, .driven .low⟩, ⟨.output, .driven .low⟩⟩ }

/-- BEGIN_SESSION inside INITIALIZE, hardware path: the six events of R133, the divider derived where the request is
positive and the fallback where it is not, and the settings of R35. That a micro-operation runs where `busy` is true
is the model's reading (log 17). -/
def Obligations.BeginSessionOnTheHardwarePath : Prop :=
  ∀ (s : State) (kHz : Int32Word) (i : Fin 2), InCommand s .uninitialized → s.transport = .hardware kHz i →
    ∃ v, (0 < kHz.toInt → v = Config.dividerOf kHz) ∧ (kHz.toInt ≤ 0 → v = Config.fallbackDivider) ∧
      exec .beginSession s = .next
        { s with
          events := s.events ++ [.spiOpen, .spiSetDivider v, .spiSetBitOrder .msbFirst, .spiSetMode 0,
            .spiSelectCS i, .spiSetCSPolarity i .low]
          spi := ⟨true, ⟨v, true⟩, ⟨.msbFirst, true⟩, ⟨0, true⟩, ⟨i, true⟩, ⟨.low, true⟩⟩ }

/-- END_SESSION inside END_OPERATIONS: on the software path three events, all lines low and their directions as they
were (R134); on the hardware path one event, the bus closed and its settings kept (R135). That a micro-operation runs
where `busy` is true is the model's reading (log 17). -/
def Obligations.EndSessionOnBothPaths : Prop :=
  (∀ (s : State) (clk cs din : LineId), InCommand s .active → s.transport = .software clk cs din →
    clk ≠ cs → clk ≠ din → cs ≠ din →
    exec .endSession s = .next
      { s with
        events := s.events ++ [.setLine clk .low, .setLine cs .low, .setLine din .low]
        lines := ⟨⟨s.lines.clk.dir, .driven .low⟩, ⟨s.lines.cs.dir, .driven .low⟩,
          ⟨s.lines.din.dir, .driven .low⟩⟩ }) ∧
  (∀ (s : State) (kHz : Int32Word) (i : Fin 2), InCommand s .active → s.transport = .hardware kHz i →
    exec .endSession s = .next
      { s with events := s.events ++ [.spiClose], spi := { s.spi with isOpen := false } })

/-- BEGIN_SESSION and END_SESSION presented by the host, that is while no command is in progress, are refused as
InternalOnly in every session state (R106, R211, R219). That this reason is named before the bus and the session are
asked is the model's choice (log 23). -/
def Obligations.HostMicroOperationsRefused : Prop :=
  ∀ s : State, s.busy = false →
    exec .beginSession s = .refused .internalOnly ∧ exec .endSession s = .refused .internalOnly

/-! ### The frame write -/

/-- WRITE_FRAME completes for every address and data byte in an Active, ready block: it delivers exactly its frame and
writes no shadow; a register of the chip takes the byte, the no-op changes none, and no other register changes in
either case (R38, R39, R136, R147). After a code the document does not define nothing is said of the chip (R46). -/
def Obligations.WriteFrameDeliversItsFrame : Prop :=
  ∀ (s : State) (a d : Byte), Ready s .active →
    ∃ t, exec (.writeFrame a d) s = .next t ∧ Delivered s [⟨a, d⟩] t ∧ SameShadows s t ∧
      (IsRegister a → memRead t.sink a.toNat = some d ∧ SinkSameOutside [a.toNat] s t) ∧
      (a = 0x00#8 → t.sink = s.sink)

/-- On the software path a frame is chip-select asserted, the address byte's eight bit cells, the data byte's eight,
chip-select deasserted; a byte is forty events, bit 7 first (R138, R139). -/
def Obligations.SoftwareFrameIsItsWaveform : Prop :=
  ∀ (s : State) (a d : Byte) (clk cs din : LineId), Ready s .active → s.transport = .software clk cs din →
    ∃ t, exec (.writeFrame a d) s = .next t ∧
      t.events = s.events ++ (.setLine cs Config.csActive ::
        (shiftByte clk din s.commDelay.toNat a ++ shiftByte clk din s.commDelay.toNat d
          ++ [.setLine cs Config.csActive.other])) ∧
      (shiftByte clk din s.commDelay.toNat a).length = 40 ∧ (shiftByte clk din s.commDelay.toNat d).length = 40

/-- After a software-path frame the clock is low, chip-select is at its deasserted level and the data line carries bit
0 of the data; the lines' directions are as they were (R140). -/
def Obligations.LinesAfterASoftwareFrame : Prop :=
  ∀ (s : State) (a d : Byte) (clk cs din : LineId), Ready s .active → s.transport = .software clk cs din →
    clk ≠ cs → clk ≠ din → cs ≠ din →
    ∃ t, exec (.writeFrame a d) s = .next t ∧
      t.lines = ⟨⟨s.lines.clk.dir, .driven .low⟩, ⟨s.lines.cs.dir, .driven Config.csActive.other⟩,
        ⟨s.lines.din.dir, .driven (Level.ofBit (d.getLsbD 0))⟩⟩

/-- One software-path frame lasts at least 16 * 2 * commDelay microseconds, the sum of its 32 delay events; its other
50 events set a line, 2 of them chip-select, 16 the data line and 32 the clock (R250). -/
def Obligations.SoftwareFrameDuration : Prop :=
  ∀ (s : State) (a d : Byte) (clk cs din : LineId), Ready s .active → s.transport = .software clk cs din →
    clk ≠ cs → clk ≠ din → cs ≠ din →
    ∃ t es, exec (.writeFrame a d) s = .next t ∧ t.events = s.events ++ es ∧
      lowerBound es = 16 * 2 * s.commDelay.toNat ∧
      es.count (.delayMicros s.commDelay.toNat) = 32 ∧ microDelays es = 32 ∧
      setsOf cs es = 2 ∧ setsOf din es = 16 ∧ setsOf clk es = 32 ∧ es.length = 82

/-- The engine, started at the data phase of bit 15, emits in 80 events the two bytes of a frame, bit 15 first, and
comes to rest; a single event moves it on by one position, so none is skipped (R33, R138). -/
def Obligations.EngineEmitsTheBitCells : Prop :=
  ∀ (clk din : LineId) (delay : CommDelay) (a d : Byte),
    engineRun clk din delay (frameWord a d) 80 posStart
      = (shiftByte clk din delay.toNat a ++ shiftByte clk din delay.toNat d, .idle) ∧
    ∀ (sr : FrameWord) (n : Nat) (k : Fin 16) (ph : Phase),
      (engineRun clk din delay sr (n + 1) (.cell k ph)).1
        = cellEvent clk din delay sr k ph :: (engineRun clk din delay sr n (posNext (.cell k ph))).1

/-- A receiver that samples the data line where the clock rises and takes a frame where chip-select is deasserted gets,
from the events that WRITE_FRAME appends to the trace on the software path, exactly the frame written, whatever the delay
and whatever the level of chip-select before; it then holds no bits, the clock is low and chip-select deasserted (R62,
R63, R137, R147). The receiver's two moments are PRESUMED (log 33). -/
def Obligations.ReceiverGetsTheFrameSent : Prop :=
  ∀ (s : State) (a d : Byte) (clk cs din : LineId) (r : Receiver), Ready s .active →
    s.transport = .software clk cs din → clk ≠ cs → clk ≠ din → cs ≠ din →
    r.clk = .driven .low → r.bits = [] →
    ∃ t es r', exec (.writeFrame a d) s = .next t ∧ t.events = s.events ++ es ∧
      es.foldl (receiverNext clk cs din) r = r' ∧
      r'.got = r.got ++ [⟨a, d⟩] ∧ r'.bits = [] ∧ r'.clk = .driven .low ∧ r'.cs = .driven Config.csActive.other

/-- On the hardware path the delay register steers nothing: from states that differ in it alone, an accepted instruction
gives states that differ at most in the delay register itself and in the values GET_COMM_DELAY returned (R107 d, R142,
R252). Of the chip's registers, and of the model's own counter of free values, this is said where every frame sent has a
code the document defines, since R46 allows no claim about the chip after another code. -/
def Obligations.HardwarePathIgnoresTheDelay : Prop :=
  ∀ (s t : State) (i : Instr) (us : CommDelay), hardwareActive s = true → exec i s = .next t →
    ∃ t', exec i { s with commDelay := us } = .next t' ∧
      t' = { t with commDelay := t'.commDelay, returns := t'.returns, sink := t'.sink, freeCount := t'.freeCount } ∧
      (s.digitCount.val.toNat ≤ 8 → (∀ a d, i = .writeFrame a d → a.toNat ∈ frameCodes) →
        t'.sink = t.sink ∧ t'.freeCount = t.freeCount)

/-! ### The timing knob -/

/-- SET_COMM_DELAY writes the delay register and nothing else, in every session state, for every value; a software
frame written next uses the new value at both delays of every cell (R144). -/
def Obligations.SetCommDelayWritesTheDelay : Prop :=
  ∀ (s : State) (us : CommDelay), s.busy = false →
    exec (.setCommDelay us) s = .next { s with commDelay := us } ∧
    ∀ (a d : Byte) (clk cs din : LineId) (u : State), s.transport = .software clk cs din →
      exec (.writeFrame a d) { s with commDelay := us } = .next u →
      u.events = s.events ++ softwareFrame clk cs din us.toNat ⟨a, d⟩

/-- GET_COMM_DELAY returns the delay register, in every session state; no event, and no state of the block is written
(how the value reaches the host is the model's, log 16). No other instruction returns a value; after reset the value
is 0 (R145). -/
def Obligations.GetCommDelayReturnsTheDelay : Prop :=
  (∀ s : State, s.busy = false →
    exec .getCommDelay s = .next { s with returns := s.returns ++ [s.commDelay] }) ∧
  (∀ (i : Instr) (s t : State), exec i s = .next t → i ≠ .getCommDelay → isConstructor i = false →
    t.returns = s.returns) ∧
  (∃ t, exec .getCommDelay State.reset = .next t ∧ t.returns = [0#16])

/-! ### Register-writing commands -/

/-- INITIALIZE completes in an Uninitialized, ready block for a digit count in 1..8 and a legal mode: the events of
session begin, the settle delay and its frames, in the order of R161; every shadow stored; Active; not busy; on the
software path the lines are outputs with the clock low and chip-select deasserted, on the hardware path the bus is open
with its fixed settings (R234); the settings, the delay and the host's side stay. -/
def Obligations.InitializeRunsTheSequence : Prop :=
  ∀ (s : State) (n m : Byte), Ready s .uninitialized → 1 ≤ n.toNat → n.toNat ≤ 8 →
    (m = Config.decodeNone ∨ m = Config.decodeCodeB) →
    ∃ t fs, exec (.initialise n m) s = .next t ∧
      fs = [⟨0x0B#8, BitVec.ofNat 8 (n.toNat - 1)⟩, ⟨0x09#8, m⟩, ⟨0x0C#8, 0x01#8⟩, ⟨0x0F#8, 0x00#8⟩]
        ++ (List.range n.toNat).map (fun r => ⟨BitVec.ofNat 8 (r + 1), 0x00#8⟩) ++ [⟨0x0A#8, 0x08#8⟩] ∧
      t.frames = s.frames ++ fs ∧
      t.events = s.events ++ beginEvents s.transport ++ [.delayMillis 50] ++ traceOf s.transport s.commDelay fs ∧
      t.digitCount = ⟨n, true⟩ ∧ t.decodeMode = ⟨m, true⟩ ∧ t.intensity = ⟨0x08#8, true⟩ ∧
      t.shutdown = ⟨false, true⟩ ∧ t.displayTest = ⟨false, true⟩ ∧
      t.session = .active ∧ t.busy = false ∧ SameSetting s t ∧ t.commDelay = s.commDelay ∧ t.returns = s.returns ∧
      (∀ clk cs din, s.transport = .software clk cs din → clk ≠ cs → clk ≠ din → cs ≠ din →
        t.lines = ⟨⟨.output, .driven .low⟩, ⟨.output, .driven Config.csActive.other⟩, ⟨.output, .driven .low⟩⟩ ∧
        t.spi = s.spi) ∧
      (∀ kHz i, s.transport = .hardware kHz i →
        t.spi = ⟨true, ⟨dividerFor kHz, true⟩, ⟨.msbFirst, true⟩, ⟨0, true⟩, ⟨i, true⟩, ⟨.low, true⟩⟩ ∧
        t.lines = s.lines ∧ t.sr = s.sr ∧ t.pos = s.pos)

/-- What INITIALIZE leaves in the chip: scan limit n - 1, the requested mode, normal operation, test off, digits 1..n
at 0x00, intensity 0x08; the digit registers above n, and every other code, as they were (R53, R161 d, R234). -/
def Obligations.InitializeSetsTheChip : Prop :=
  ∀ (s t : State) (n m : Byte), exec (.initialise n m) s = .next t →
    memRead t.sink 0x0B = some (BitVec.ofNat 8 (n.toNat - 1)) ∧ memRead t.sink 0x09 = some m ∧
    memRead t.sink 0x0C = some 0x01#8 ∧ memRead t.sink 0x0F = some 0x00#8 ∧ memRead t.sink 0x0A = some 0x08#8 ∧
    (∀ r, 1 ≤ r → r ≤ n.toNat → memRead t.sink r = some 0x00#8) ∧
    (∀ r, ¬ (1 ≤ r ∧ r ≤ n.toNat) → r ∉ [0x09, 0x0A, 0x0B, 0x0C, 0x0F] → memRead t.sink r = memRead s.sink r)

/-- INITIALIZE with a digit count outside 1..8 is refused as BadDigitCount, and with a mode byte other than the two
constants as BadDecodeMode (R106, R219). Where both are bad, naming the digit count is the model's choice (log 23). -/
def Obligations.BadInitializeOperandsRefused : Prop :=
  (∀ (s : State) (n m : Byte), Ready s .uninitialized → (n.toNat = 0 ∨ 8 < n.toNat) →
    exec (.initialise n m) s = .refused .badDigitCount) ∧
  (∀ (s : State) (n m : Byte), Ready s .uninitialized → 1 ≤ n.toNat → n.toNat ≤ 8 →
    m ≠ Config.decodeNone → m ≠ Config.decodeCodeB → exec (.initialise n m) s = .refused .badDecodeMode)

/-- CLEAR writes 0x00 to registers 1..digitCount in ascending order and to no other; no shadow is written (R162). -/
def Obligations.ClearWritesEveryDigit : Prop :=
  ∀ s : State, Ready s .active → s.digitCount.val.toNat ≤ 8 →
    ∃ t, exec .clear s = .next t ∧
      Delivered s ((List.range s.digitCount.val.toNat).map (fun r => ⟨BitVec.ofNat 8 (r + 1), 0x00#8⟩)) t ∧
      SameShadows s t ∧
      (∀ r, 1 ≤ r → r ≤ s.digitCount.val.toNat → memRead t.sink r = some 0x00#8) ∧
      (∀ r, ¬ (1 ≤ r ∧ r ≤ s.digitCount.val.toNat) → memRead t.sink r = memRead s.sink r)

/-- SET_SEGMENTS writes its byte verbatim to register `digitIndex + 1`, for an index in 0..7 whatever the digit count,
and no shadow (R95, R163). -/
def Obligations.SetSegmentsWritesTheRawByte : Prop :=
  ∀ (s : State) (k b : Byte), Ready s .active → k.toNat ≤ 7 →
    ∃ t, exec (.setSegments k b) s = .next t ∧ Delivered s [⟨BitVec.ofNat 8 (k.toNat + 1), b⟩] t ∧ SameShadows s t ∧
      memRead t.sink (k.toNat + 1) = some b ∧ SinkSameOutside [k.toNat + 1] s t

/-- A digit index of 8 or more is refused as DigitIndexTooLarge, by SET_SEGMENTS and by DISPLAY_CHAR (R95, R106,
R219). -/
def Obligations.DigitIndexAboveSevenRefused : Prop :=
  ∀ (s : State) (k b : Byte) (dp : Bool), Ready s .active → 8 ≤ k.toNat →
    exec (.setSegments k b) s = .refused .digitIndexTooLarge ∧
    exec (.displayChar k b dp) s = .refused .digitIndexTooLarge

/-- SET_BRIGHTNESS sends min(level, 0x0F) to the intensity register and stores what it sent; no other shadow is written
(R97, R164). -/
def Obligations.SetBrightnessClamps : Prop :=
  ∀ (s : State) (level v : Byte), Ready s .active → v = BitVec.ofNat 8 (min level.toNat 0x0F) →
    ∃ t, exec (.setBrightness level) s = .next t ∧ Delivered s [⟨0x0A#8, v⟩] t ∧
      t.intensity = ⟨v, true⟩ ∧ t.digitCount = s.digitCount ∧ t.decodeMode = s.decodeMode ∧
      t.shutdown = s.shutdown ∧ t.displayTest = s.displayTest ∧
      memRead t.sink 0x0A = some v ∧ SinkSameOutside [0x0A] s t

/-- SET_SHUTDOWN sends 0x00 to enter shutdown and 0x01 for normal operation, and stores the boolean itself; no other
shadow is written (R98, R165). -/
def Obligations.SetShutdownIsInverted : Prop :=
  ∀ (s : State) (on : Bool) (v : Byte), Ready s .active → (on = true → v = 0x00#8) → (on = false → v = 0x01#8) →
    ∃ t, exec (.setShutdown on) s = .next t ∧ Delivered s [⟨0x0C#8, v⟩] t ∧
      t.shutdown = ⟨on, true⟩ ∧ t.digitCount = s.digitCount ∧ t.decodeMode = s.decodeMode ∧
      t.intensity = s.intensity ∧ t.displayTest = s.displayTest ∧
      memRead t.sink 0x0C = some v ∧ SinkSameOutside [0x0C] s t

/-- SET_DISPLAY_TEST sends 0x01 for on and 0x00 for off, and stores the boolean; no other shadow is written and no
digit register of the chip changes (R45, R99, R166). -/
def Obligations.SetDisplayTestIsNotInverted : Prop :=
  ∀ (s : State) (on : Bool) (v : Byte), Ready s .active → (on = true → v = 0x01#8) → (on = false → v = 0x00#8) →
    ∃ t, exec (.setDisplayTest on) s = .next t ∧ Delivered s [⟨0x0F#8, v⟩] t ∧
      t.displayTest = ⟨on, true⟩ ∧ t.digitCount = s.digitCount ∧ t.decodeMode = s.decodeMode ∧
      t.intensity = s.intensity ∧ t.shutdown = s.shutdown ∧
      memRead t.sink 0x0F = some v ∧ SinkSameOutside [0x0F] s t

/-- END_OPERATIONS sends no frame: on the software path three line events and all lines low, on the hardware path the
bus released; the session is Ended, every shadow, the chip and everything else as before (R134, R135, R167). -/
def Obligations.EndOperationsEndsTheSession : Prop :=
  (∀ (s : State) (clk cs din : LineId), Ready s .active → s.transport = .software clk cs din →
    clk ≠ cs → clk ≠ din → cs ≠ din →
    exec .endOperations s = .next
      { s with
        session := .ended
        events := s.events ++ [.setLine clk .low, .setLine cs .low, .setLine din .low]
        lines := ⟨⟨s.lines.clk.dir, .driven .low⟩, ⟨s.lines.cs.dir, .driven .low⟩,
          ⟨s.lines.din.dir, .driven .low⟩⟩ }) ∧
  (∀ (s : State) (kHz : Int32Word) (i : Fin 2), Ready s .active → s.transport = .hardware kHz i →
    exec .endOperations s = .next
      { s with
        session := .ended
        events := s.events ++ [.spiClose]
        spi := { s.spi with isOpen := false } })

/-! ### Content commands -/

/-- DISPLAY_CHAR writes, to register `digitIndex + 1`, the font's entry for a code in 0x20..0x7A and 0x00 for any other,
with bit 7 set if and only if the decimal point is requested and bits 6:0 as without it; no shadow is written (R100,
R101, R181, R182). -/
def Obligations.DisplayCharWritesTheGlyph : Prop :=
  ∀ (s : State) (k c v : Byte) (dp : Bool), Ready s .active → k.toNat ≤ 7 →
    (∀ j, j < 7 → v.getLsbD j = (decide (0x20 ≤ c.toNat ∧ c.toNat ≤ 0x7A) && (Config.font c).getLsbD j)) →
    v.getLsbD 7 = dp →
    ∃ t, exec (.displayChar k c dp) s = .next t ∧ Delivered s [⟨BitVec.ofNat 8 (k.toNat + 1), v⟩] t ∧
      SameShadows s t ∧ memRead t.sink (k.toNat + 1) = some v ∧ SinkSameOutside [k.toNat + 1] s t

/-- DISPLAY_TEXT renders the first digitCount content items from digit digitCount - 1 downward, one frame each; the
chip's registers it addresses take the items' segment bytes; those it does not reach, and every shadow, stay (R38, R186;
items beyond the last digit as 92_eei_decisions.md D20 has them, log 25). -/
def Obligations.DisplayTextFillsFromTheLeft : Prop :=
  ∀ (s : State) (text : List Byte) (n : Nat), Ready s .active → n = s.digitCount.val.toNat → n ≤ 8 →
    ∃ t fs, exec (.displayText text) s = .next t ∧ Delivered s fs t ∧
      PlacedFrom n (min (textItems text).length n) (textItems text) fs ∧
      (∀ j it, j < n → (textItems text)[j]? = some it →
        memRead t.sink (n - j) = some (segmentByte it.char it.dp)) ∧
      SameShadows s t ∧ SinkSameOutside (fs.map fun f => f.addr.toNat) s t

/-- DISPLAY_TEXT_ALIGNED with Left alignment does, in every state, exactly what DISPLAY_TEXT does, refusals included
(R185, R186; the loop bound of 93_implementation_defined.md U8). -/
def Obligations.LeftAlignedTextIsUnalignedText : Prop :=
  ∀ (s : State) (text : List Byte), exec (.displayTextAligned text .left) s = exec (.displayText text) s

/-- DISPLAY_TEXT_ALIGNED with Right alignment renders its items from digit effLen - 1 downward where no index falls
below 0: the chip's registers it addresses take the items' segment bytes, every other register and every shadow stays
(R38, R184, R185, R242). -/
def Obligations.RightAlignedTextIsRightJustified : Prop :=
  ∀ (s : State) (text : List Byte) (n : Nat), Ready s .active → n = s.digitCount.val.toNat → n ≤ 8 →
    min (textItems text).length n ≤ min (text.countP (· != 0x2E#8)) n →
    ∃ t fs, exec (.displayTextAligned text .right) s = .next t ∧ Delivered s fs t ∧
      PlacedFrom (min (text.countP (· != 0x2E#8)) n) (min (textItems text).length n) (textItems text) fs ∧
      (∀ j it, j < n → (textItems text)[j]? = some it →
        memRead t.sink (min (text.countP (· != 0x2E#8)) n - j) = some (segmentByte it.char it.dp)) ∧
      SameShadows s t ∧ SinkSameOutside (fs.map fun f => f.addr.toNat) s t

/-- DISPLAY_TEXT_ALIGNED with Right alignment is refused as a whole where some item's index would be below 0
(R185 e, R219). -/
def Obligations.NegativeDigitRefused : Prop :=
  ∀ (s : State) (text : List Byte) (n : Nat), Ready s .active → n = s.digitCount.val.toNat →
    min (text.countP (· != 0x2E#8)) n < min (textItems text).length n →
    exec (.displayTextAligned text .right) s = .refused .negativeDigit

/-- DISPLAY_TEXT_ALIGNED with RightZeros returns without a frame, an event or any change, whatever the text
(R107 b, R185 c). -/
def Obligations.RightZerosTextDoesNothing : Prop :=
  ∀ (s : State) (text : List Byte), Ready s .active →
    exec (.displayTextAligned text .rightZeros) s = .next s

/-- The content items of a text: read back in order, with a dot after each item that carries a decimal point, they
spell the text; no dot carries a decimal point; and after an item that carries none there comes no dot, unless the
item is a dot itself. So a dot is absorbed exactly where it follows a character that is not a dot (R183). -/
def Obligations.ItemsSpellTheText : Prop :=
  ∀ t : List Byte,
    (textItems t).flatMap itemChars = t ∧
    (∀ it ∈ textItems t, it.dp = true → it.char ≠ 0x2E#8) ∧
    (∀ (j : Nat) (it next : Item), (textItems t)[j]? = some it → (textItems t)[j + 1]? = some next →
      it.dp = false → it.char ≠ 0x2E#8 → next.char ≠ 0x2E#8)

/-- formatInt (R187): sign, shortest numeral of the magnitude, and padding to the minimum width: spaces before it for
Right, spaces after it for Left, zeros between sign and numeral for RightZeros. It never shortens. -/
def Obligations.FormatIntPadsTheNumeral : Prop :=
  ∀ (v : Int32Word) (w : Nat) (sign : List Byte), (v.toInt < 0 → sign = [0x2D#8]) → (0 ≤ v.toInt → sign = []) →
    ∃ dec, IsNumeral dec v.toInt.natAbs ∧
      formatInt v w .right = List.replicate (w - sign.length - dec.length) 0x20#8 ++ sign ++ dec ∧
      formatInt v w .left = sign ++ dec ++ List.replicate (w - sign.length - dec.length) 0x20#8 ∧
      formatInt v w .rightZeros = sign ++ List.replicate (w - sign.length - dec.length) 0x30#8 ++ dec ∧
      ∀ al, (formatInt v w al).length = max w (sign.length + dec.length)

/-- DISPLAY_INTEGER writes exactly digitCount frames, registers digitCount down to 1, one for each of the first
digitCount characters of the number formatted to that width, and the chip's registers take those glyphs; nothing else of the chip and no shadow changes (R187,
R188; the sign and the overlong numeral as 92_eei_decisions.md D21 has them, log 25). -/
def Obligations.DisplayIntegerRewritesEveryDigit : Prop :=
  ∀ (s : State) (v : Int32Word) (al : TextAlignment) (n : Nat), Ready s .active → n = s.digitCount.val.toNat → n ≤ 8 →
    ∃ t fs, exec (.displayInteger v al) s = .next t ∧ Delivered s fs t ∧ fs.length = n ∧
      (∀ j c, j < n → (formatInt v n al)[j]? = some c →
        fs[j]? = some ⟨BitVec.ofNat 8 (n - j), glyph c⟩ ∧ memRead t.sink (n - j) = some (glyph c)) ∧
      SameShadows s t ∧ (∀ r, ¬ (1 ≤ r ∧ r ≤ n) → memRead t.sink r = memRead s.sink r)

/-- DISPLAY_TWO_FIELDS formats both values to half the digits and writes the first digitCount characters of the two
texts, upper first, from register digitCount downward, and the chip's registers take those glyphs; nothing else of the chip and no shadow changes (R189). -/
def Obligations.DisplayTwoFieldsSplitsTheDigits : Prop :=
  ∀ (s : State) (u l : Int32Word) (al : TextAlignment) (n : Nat) (text : List Byte), Ready s .active →
    n = s.digitCount.val.toNat → 2 ≤ n → n ≤ 8 → text = formatInt u (n / 2) al ++ formatInt l (n / 2) al →
    ∃ t fs, exec (.displayTwoFields u l al) s = .next t ∧ Delivered s fs t ∧ fs.length = min text.length n ∧
      (∀ j c, j < n → text[j]? = some c →
        fs[j]? = some ⟨BitVec.ofNat 8 (n - j), glyph c⟩ ∧ memRead t.sink (n - j) = some (glyph c)) ∧
      SameShadows s t ∧ SinkSameOutside (fs.map fun f => f.addr.toNat) s t

/-- DISPLAY_TWO_FIELDS on a display of one digit is refused as ZeroFieldWidth (R189, R219). -/
def Obligations.ZeroFieldWidthRefused : Prop :=
  ∀ (s : State) (u l : Int32Word) (al : TextAlignment), Ready s .active → s.digitCount.val.toNat = 1 →
    exec (.displayTwoFields u l al) s = .refused .zeroFieldWidth

/-! ### Frames at the chip -/

/-- A frame for the no-op changes nothing at the sink, whatever its data byte, and no command of the block but a host
WRITE_FRAME(0x00, d) produces one (R39). -/
def Obligations.NoopFramesChangeNothing : Prop :=
  (∀ (s : State) (d : Byte), ∃ t, exec (.noop d) s = .next t ∧ t.sink = s.sink) ∧
  (∀ (s : State) (d : Byte), Ready s .active → ∃ t, exec (.writeFrame 0x00#8 d) s = .next t ∧ t.sink = s.sink) ∧
  (∀ (i : Instr) (s t : State) (fs : List Frame), ShadowsLegal s → exec i s = .next t → t.frames = s.frames ++ fs →
    (∃ f ∈ fs, f.addr = 0x00#8) → ∃ d, i = .writeFrame 0x00#8 d)

/-- A frame for a digit register stores its byte there: DIGIT`k` in register `k + 1`; every other register and the
whole block stay (R38, R40). That a frame which arrives at the chip leaves the block's traces alone is the model's choice
(log 3). -/
def Obligations.DigitFramesStoreTheSegments : Prop :=
  ∀ (s : State) (d : Byte) (i : Instr) (r : Nat),
    (i, r) ∈ [(Instr.digit0 d, 1), (.digit1 d, 2), (.digit2 d, 3), (.digit3 d, 4), (.digit4 d, 5), (.digit5 d, 6),
      (.digit6 d, 7), (.digit7 d, 8)] →
    ∃ t, exec i s = .next t ∧ memRead t.sink r = some d ∧ SinkSameOutside [r] s t ∧ t = { s with sink := t.sink }

/-- A frame for a control register stores its byte there: DECODE_MODE, INTENSITY, SCAN_LIMIT, SHUTDOWN and
DISPLAY_TEST in registers 0x09, 0x0A, 0x0B, 0x0C and 0x0F; every other register, the digits among them, and the whole
block stay (R38, R41 to R45, R69); a NOOP frame leaves the whole machine as it was (R39). That a frame which arrives at
the chip leaves the block's traces alone is the model's choice (log 3). -/
def Obligations.ControlFramesStoreTheirByte : Prop :=
  (∀ (s : State) (d : Byte) (i : Instr) (r : Nat),
    (i, r) ∈ [(Instr.decodeMode d, 0x09), (.intensity d, 0x0A), (.scanLimit d, 0x0B), (.shutdown d, 0x0C),
      (.displayTest d, 0x0F)] →
    ∃ t, exec i s = .next t ∧ memRead t.sink r = some d ∧ SinkSameOutside [r] s t ∧ t = { s with sink := t.sink }) ∧
  (∀ (s : State) (d : Byte), exec (.noop d) s = .next s)

/-! ### Whole-machine rules -/

/-- A command outside the session states of R211 is refused as WrongSession, whatever its operands. That the
session is named before an operand out of range is R205's suggestion, which it calls immaterial (log 23). -/
def Obligations.WrongSessionRefused : Prop :=
  ∀ (s : State) (i : Instr) (need : Session), neededSession i = some need → s.busy = false → s.busReady = true →
    s.session ≠ need → exec i s = .refused .wrongSession

/-- With the bus subsystem not ready every command but construction, the timing knob and the two micro-operations (from
the host InternalOnly, log 23) is refused as BusNotReady, in every session state (R201, R219). That the bus is named before the session and the operands is R205's suggestion, which it calls
immaterial (log 23). -/
def Obligations.BusNotReadyRefused : Prop :=
  ∀ (s : State) (i : Instr) (need : Session), neededSession i = some need → s.busy = false → s.busReady = false →
    exec i s = .refused .busNotReady

/-- While busy is true no command is accepted, the timing knob included, and a command that completes leaves busy false
(R31). The refusal's name is the model's (log 18). -/
def Obligations.BusyBlocksCommands : Prop :=
  (∀ (s : State) (i : Instr), s.busy = true →
    ((∃ need, neededSession i = some need) ∨ (∃ us, i = .setCommDelay us) ∨ i = .getCommDelay) →
    exec i s = .refused .busy) ∧
  (∀ (s t : State) (i : Instr) (need : Session), neededSession i = some need → exec i s = .next t → t.busy = false)

/-- INITIALIZE is the only transition from Uninitialized to Active, END_OPERATIONS the only one from Active to Ended,
a construction always gives Uninitialized, and nothing else moves the session (R25, R210, R230). -/
def Obligations.SessionTransitionsAreTheTwo : Prop :=
  ∀ (s t : State) (i : Instr), exec i s = .next t →
    (isConstructor i = true → t.session = .uninitialized) ∧
    (isConstructor i = false →
      t.session = s.session ∨
      (s.session = .uninitialized ∧ t.session = .active ∧ ∃ n m, i = .initialise n m) ∨
      (s.session = .active ∧ t.session = .ended ∧ i = .endOperations))

/-- Both traces only grow, but for a construction, which starts them anew (R11, R36, R230). -/
def Obligations.TracesOnlyGrow : Prop :=
  ∀ (s t : State) (i : Instr), exec i s = .next t →
    (isConstructor i = false → (∃ es, t.events = s.events ++ es) ∧ (∃ fs, t.frames = s.frames ++ fs)) ∧
    (isConstructor i = true → t.events = [] ∧ t.frames = [])

/-- Every frame a command other than a host WRITE_FRAME produces has an address in 0x01..0x0C or 0x0F, in a block whose
digit count is at most 8 (R49 e, R69). -/
def Obligations.CommandFramesUseDefinedCodes : Prop :=
  ∀ (s t : State) (i : Instr) (fs : List Frame), s.digitCount.val.toNat ≤ 8 → exec i s = .next t →
    t.frames = s.frames ++ fs → (∀ a d, i ≠ .writeFrame a d) → ∀ f ∈ fs, IsRegister f.addr

/-- Each shadow is written by its own commands alone: digitCount and decodeMode by INITIALIZE, intensity, shutdown and
displayTest by INITIALIZE and by SET_BRIGHTNESS, SET_SHUTDOWN and SET_DISPLAY_TEST, all by a construction; so no
WRITE_FRAME reaches one (R26 to R30, R249). -/
def Obligations.ShadowsAreWrittenByTheirCommands : Prop :=
  ∀ (s t : State) (i : Instr), exec i s = .next t → isConstructor i = false → (∀ n m, i ≠ .initialise n m) →
    t.digitCount = s.digitCount ∧ t.decodeMode = s.decodeMode ∧
    ((∀ l, i ≠ .setBrightness l) → t.intensity = s.intensity) ∧
    ((∀ on, i ≠ .setShutdown on) → t.shutdown = s.shutdown) ∧
    ((∀ on, i ≠ .setDisplayTest on) → t.displayTest = s.displayTest)

/-- The transport configuration is written by construction alone: no switching between paths (R20 to R23, R49 a). -/
def Obligations.TransportIsFixed : Prop :=
  ∀ (s t : State) (i : Instr), exec i s = .next t → isConstructor i = false → t.transport = s.transport

/-- The shadows other than digitCount, and what the chip holds, steer nothing: from states that differ in them alone,
an accepted instruction gives states that differ at most in them, so the transport, the delay, the session, digitCount,
busy, the engine, the lines, the bus, both traces, the returned values and the host's side are the same (R27 to R30, R47,
R76, R190). The model's own counter of free values is not compared. -/
def Obligations.ShadowsAndChipSteerNothing : Prop :=
  ∀ (s t : State) (i : Instr) (mode level : Reg Byte) (down test : Reg Bool) (chip : Memory),
    exec i s = .next t →
    ∃ t', exec i { s with decodeMode := mode, intensity := level, shutdown := down, displayTest := test, sink := chip }
        = .next t' ∧
      t' = { t with
        decodeMode := t'.decodeMode
        intensity := t'.intensity
        shutdown := t'.shutdown
        displayTest := t'.displayTest
        sink := t'.sink
        freeCount := t'.freeCount }

/-! ### Invariants -/

/-- A step keeps the invariant of the block between commands: not busy and the engine idle, the chip's registers in
canonical form, distinct lines, R49 (b), (c) and (d), the bus settings of R234, and the lines and the bus being the
fold of the event trace (R34). That a whole command is one step, and the canonical form, are the model's choices (logs 1
and 7). -/
def Obligations.StepKeepsTheBlockInvariant : Prop :=
  ∀ s t : State, Inv s → step s = .next t → Inv t

/-- The state after reset meets that invariant, and its empty traces agree. -/
def Obligations.ResetMeetsTheBlockInvariant : Prop := Inv State.reset ∧ FramesCarried State.reset

/-- A step keeps, with the invariant, that the frame trace is what the event trace carries: on the software path the
frames a receiver takes from the three lines, with no bit left over, on the hardware path the transfers (R6, R36,
R49 e, R65). The receiver's two moments are PRESUMED (log 33). -/
def Obligations.StepKeepsFramesCarried : Prop :=
  ∀ s t : State, Inv s → FramesCarried s → step s = .next t → FramesCarried t

/-- The chip's registers stay in canonical form through every instruction, from any state, reachable or not. The form
is the model's (log 7). -/
def Obligations.EveryInstructionKeepsTheChipCanonical : Prop :=
  ∀ (s t : State) (i : Instr), memWf s.sink = true → exec i s = .next t → memWf t.sink = true
end

