-- ==== Sys2Proof/Laws/Decode.lean ====
section
/-! SUPPORT. The small lemmas of the encodings: fields of a frame word, bytes of wide operands, texts. -/

namespace Sys2Proof

/-- The bits of a frame word: the data byte's, then the address byte's (R90). -/
theorem frameWord_bit (a d : Byte) (i : Nat) :
    (frameWord a d).getLsbD i = if i < 8 then d.getLsbD i else a.getLsbD (i - 8) := by
  unfold frameWord
  rw [BitVec.getLsbD_append]

theorem wordOfBytes_bit (b1 b0 : Byte) (i : Nat) :
    (wordOfBytes b1 b0).getLsbD i = if i < 8 then b0.getLsbD i else b1.getLsbD (i - 8) := frameWord_bit b1 b0 i

theorem int32OfBytes_bit (b3 b2 b1 b0 : Byte) (i : Nat) :
    (int32OfBytes b3 b2 b1 b0).getLsbD i
      = if i < 8 then b0.getLsbD i
        else if i < 16 then b1.getLsbD (i - 8)
        else if i < 24 then b2.getLsbD (i - 16)
        else b3.getLsbD (i - 24) := by
  unfold int32OfBytes
  rw [BitVec.getLsbD_append, BitVec.getLsbD_append, BitVec.getLsbD_append]
  by_cases h0 : i < 8
  · simp [h0]
  · by_cases h1 : i < 16
    · simp [h0, h1, show i - 8 < 8 by omega]
    · by_cases h2 : i < 24
      · simp [h0, h1, h2, show ¬ i - 8 < 8 by omega, show i - 8 - 8 = i - 16 by omega, show i - 16 < 8 by omega]
      · simp [h0, h1, h2, show ¬ i - 8 < 8 by omega, show ¬ i - 8 - 8 < 8 by omega,
          show i - 8 - 8 - 8 = i - 24 by omega]

@[simp] theorem frameAddr_frameWord (a d : Byte) : frameAddr (frameWord a d) = a := by
  apply BitVec.eq_of_getLsbD_eq
  intro i hi
  unfold frameAddr
  rw [BitVec.getLsbD_extractLsb', frameWord_bit]
  simp [hi]

@[simp] theorem frameData_frameWord (a d : Byte) : frameData (frameWord a d) = d := by
  apply BitVec.eq_of_getLsbD_eq
  intro i hi
  unfold frameData
  rw [BitVec.getLsbD_extractLsb', frameWord_bit]
  simp [hi]

/-- A frame word is its two bytes (R94). -/
theorem frameWord_fields (w : FrameWord) : frameWord (frameAddr w) (frameData w) = w := by
  apply BitVec.eq_of_getLsbD_eq
  intro i hi
  rw [frameWord_bit]
  unfold frameAddr frameData
  rw [BitVec.getLsbD_extractLsb', BitVec.getLsbD_extractLsb']
  split
  · simp [*]
  · simp [show i - 8 < 8 by omega, show 8 + (i - 8) = i by omega]

@[simp] theorem wordOfBytes_bytes (w : BitVec 16) : wordOfBytes (byteOfWord w 1) (byteOfWord w 0) = w :=
  frameWord_fields w

theorem bytes_wordOfBytes (b1 b0 : Byte) :
    byteOfWord (wordOfBytes b1 b0) 1 = b1 ∧ byteOfWord (wordOfBytes b1 b0) 0 = b0 :=
  ⟨frameAddr_frameWord b1 b0, frameData_frameWord b1 b0⟩

@[simp] theorem int32OfBytes_bytes (w : Int32Word) :
    int32OfBytes (byteOfInt32 w 3) (byteOfInt32 w 2) (byteOfInt32 w 1) (byteOfInt32 w 0) = w := by
  apply BitVec.eq_of_getLsbD_eq
  intro i hi
  rw [int32OfBytes_bit]
  unfold byteOfInt32
  simp only [BitVec.getLsbD_extractLsb']
  split
  · simp [*]
  · split
    · simp [show i - 8 < 8 by omega, show 8 + (i - 8) = i by omega]
    · split
      · simp [show i - 16 < 8 by omega, show 16 + (i - 16) = i by omega]
      · simp [show i - 24 < 8 by omega, show 24 + (i - 24) = i by omega]

theorem bytes_int32OfBytes (b3 b2 b1 b0 : Byte) :
    byteOfInt32 (int32OfBytes b3 b2 b1 b0) 3 = b3 ∧ byteOfInt32 (int32OfBytes b3 b2 b1 b0) 2 = b2 ∧
      byteOfInt32 (int32OfBytes b3 b2 b1 b0) 1 = b1 ∧ byteOfInt32 (int32OfBytes b3 b2 b1 b0) 0 = b0 := by
  refine ⟨?_, ?_, ?_, ?_⟩ <;> apply BitVec.eq_of_getLsbD_eq <;> intro i hi <;> unfold byteOfInt32 <;>
    rw [BitVec.getLsbD_extractLsb', int32OfBytes_bit]
  · simp [hi, show ¬ 24 + i < 8 by omega, show ¬ 24 + i < 16 by omega]
  · simp [hi, show ¬ 16 + i < 8 by omega, show ¬ 16 + i < 16 by omega, show 16 + i < 24 by omega]
  · simp [hi, show 8 + i < 16 by omega]
  · simp [hi]

@[simp] theorem decodeBool_encodeBool (b : Bool) : decodeBool (encodeBool b) = .ok b := by cases b <;> rfl

@[simp] theorem decodeAlignment_encodeAlignment (al : TextAlignment) :
    decodeAlignment (encodeAlignment al) = .ok al := by cases al <;> rfl

/-- A text ends at its 0x00 (92_eei_decisions.md D29). -/
theorem splitText_append (t rest : List Byte) (h : textOk t = true) :
    splitText (t ++ 0x00#8 :: rest) = some (t, rest) := by
  induction t with
  | nil => simp [splitText]
  | cons b t ih =>
    simp [textOk] at h
    have ht : textOk t = true := by simpa [textOk] using h.2
    simp [splitText, h.1, ih ht]

/-- What `splitText` answers is a text, its 0x00 and the rest. -/
theorem splitText_some (bs t rest : List Byte) (h : splitText bs = some (t, rest)) :
    bs = t ++ 0x00#8 :: rest ∧ textOk t = true := by
  induction bs generalizing t with
  | nil => simp [splitText] at h
  | cons b bs ih =>
    simp only [splitText] at h
    split at h
    · rename_i hb
      injection h with h
      injection h with h1 h2
      subst h1 h2 hb
      exact ⟨rfl, rfl⟩
    · rename_i hb
      cases hs : splitText bs with
      | none => simp [hs] at h
      | some p =>
        obtain ⟨t', r'⟩ := p
        simp [hs] at h
        obtain ⟨h1, h2⟩ := h
        subst h1 h2
        obtain ⟨he, ho⟩ := ih t' hs
        refine ⟨by rw [he]; rfl, ?_⟩
        simp only [textOk, List.all_cons, Bool.and_eq_true]
        exact ⟨by simpa using hb, ho⟩

theorem decodeBool_ok {b : Byte} {v : Bool} (h : decodeBool b = .ok v) : b = encodeBool v := by
  unfold decodeBool at h
  split at h
  · injection h with h; subst h; assumption
  · split at h
    · injection h with h; subst h; assumption
    · exact nomatch h

theorem decodeAlignment_ok {b : Byte} {al : TextAlignment} (h : decodeAlignment b = .ok al) : b = encodeAlignment al := by
  unfold decodeAlignment at h
  split at h
  · injection h with h; subst h; assumption
  · split at h
    · injection h with h; subst h; assumption
    · split at h
      · injection h with h; subst h; assumption
      · exact nomatch h

end Sys2Proof
end

