-- ==== Sys2Proof/Laws/State.lean ====
section
/-! SUPPORT. One lemma per field and update of the state, each true by unfolding, so that no later proof unfolds a
record update. -/

namespace Sys2Proof.Machine

variable (s : State)

/-! #### setBusy -/

@[simp] theorem setBusy_transport (b : Bool) : (setBusy b s).transport = s.transport := rfl
@[simp] theorem setBusy_commDelay (b : Bool) : (setBusy b s).commDelay = s.commDelay := rfl
@[simp] theorem setBusy_session (b : Bool) : (setBusy b s).session = s.session := rfl
@[simp] theorem setBusy_digitCount (b : Bool) : (setBusy b s).digitCount = s.digitCount := rfl
@[simp] theorem setBusy_decodeMode (b : Bool) : (setBusy b s).decodeMode = s.decodeMode := rfl
@[simp] theorem setBusy_intensity (b : Bool) : (setBusy b s).intensity = s.intensity := rfl
@[simp] theorem setBusy_shutdown (b : Bool) : (setBusy b s).shutdown = s.shutdown := rfl
@[simp] theorem setBusy_displayTest (b : Bool) : (setBusy b s).displayTest = s.displayTest := rfl
@[simp] theorem setBusy_busy (b : Bool) : (setBusy b s).busy = b := rfl
@[simp] theorem setBusy_sr (b : Bool) : (setBusy b s).sr = s.sr := rfl
@[simp] theorem setBusy_pos (b : Bool) : (setBusy b s).pos = s.pos := rfl
@[simp] theorem setBusy_lines (b : Bool) : (setBusy b s).lines = s.lines := rfl
@[simp] theorem setBusy_spi (b : Bool) : (setBusy b s).spi = s.spi := rfl
@[simp] theorem setBusy_events (b : Bool) : (setBusy b s).events = s.events := rfl
@[simp] theorem setBusy_frames (b : Bool) : (setBusy b s).frames = s.frames := rfl
@[simp] theorem setBusy_returns (b : Bool) : (setBusy b s).returns = s.returns := rfl
@[simp] theorem setBusy_sink (b : Bool) : (setBusy b s).sink = s.sink := rfl
@[simp] theorem setBusy_busReady (b : Bool) : (setBusy b s).busReady = s.busReady := rfl
@[simp] theorem setBusy_pending (b : Bool) : (setBusy b s).pending = s.pending := rfl
@[simp] theorem setBusy_freeCount (b : Bool) : (setBusy b s).freeCount = s.freeCount := rfl

/-! #### setSession -/

@[simp] theorem setSession_transport (v : Session) : (setSession v s).transport = s.transport := rfl
@[simp] theorem setSession_commDelay (v : Session) : (setSession v s).commDelay = s.commDelay := rfl
@[simp] theorem setSession_session (v : Session) : (setSession v s).session = v := rfl
@[simp] theorem setSession_digitCount (v : Session) : (setSession v s).digitCount = s.digitCount := rfl
@[simp] theorem setSession_decodeMode (v : Session) : (setSession v s).decodeMode = s.decodeMode := rfl
@[simp] theorem setSession_intensity (v : Session) : (setSession v s).intensity = s.intensity := rfl
@[simp] theorem setSession_shutdown (v : Session) : (setSession v s).shutdown = s.shutdown := rfl
@[simp] theorem setSession_displayTest (v : Session) : (setSession v s).displayTest = s.displayTest := rfl
@[simp] theorem setSession_busy (v : Session) : (setSession v s).busy = s.busy := rfl
@[simp] theorem setSession_sr (v : Session) : (setSession v s).sr = s.sr := rfl
@[simp] theorem setSession_pos (v : Session) : (setSession v s).pos = s.pos := rfl
@[simp] theorem setSession_lines (v : Session) : (setSession v s).lines = s.lines := rfl
@[simp] theorem setSession_spi (v : Session) : (setSession v s).spi = s.spi := rfl
@[simp] theorem setSession_events (v : Session) : (setSession v s).events = s.events := rfl
@[simp] theorem setSession_frames (v : Session) : (setSession v s).frames = s.frames := rfl
@[simp] theorem setSession_returns (v : Session) : (setSession v s).returns = s.returns := rfl
@[simp] theorem setSession_sink (v : Session) : (setSession v s).sink = s.sink := rfl
@[simp] theorem setSession_busReady (v : Session) : (setSession v s).busReady = s.busReady := rfl
@[simp] theorem setSession_pending (v : Session) : (setSession v s).pending = s.pending := rfl
@[simp] theorem setSession_freeCount (v : Session) : (setSession v s).freeCount = s.freeCount := rfl

/-! #### storeDigitCount -/

@[simp] theorem storeDigitCount_transport (n : Byte) : (storeDigitCount n s).transport = s.transport := rfl
@[simp] theorem storeDigitCount_commDelay (n : Byte) : (storeDigitCount n s).commDelay = s.commDelay := rfl
@[simp] theorem storeDigitCount_session (n : Byte) : (storeDigitCount n s).session = s.session := rfl
@[simp] theorem storeDigitCount_digitCount (n : Byte) : (storeDigitCount n s).digitCount = Reg.stored n := rfl
@[simp] theorem storeDigitCount_decodeMode (n : Byte) : (storeDigitCount n s).decodeMode = s.decodeMode := rfl
@[simp] theorem storeDigitCount_intensity (n : Byte) : (storeDigitCount n s).intensity = s.intensity := rfl
@[simp] theorem storeDigitCount_shutdown (n : Byte) : (storeDigitCount n s).shutdown = s.shutdown := rfl
@[simp] theorem storeDigitCount_displayTest (n : Byte) : (storeDigitCount n s).displayTest = s.displayTest := rfl
@[simp] theorem storeDigitCount_busy (n : Byte) : (storeDigitCount n s).busy = s.busy := rfl
@[simp] theorem storeDigitCount_sr (n : Byte) : (storeDigitCount n s).sr = s.sr := rfl
@[simp] theorem storeDigitCount_pos (n : Byte) : (storeDigitCount n s).pos = s.pos := rfl
@[simp] theorem storeDigitCount_lines (n : Byte) : (storeDigitCount n s).lines = s.lines := rfl
@[simp] theorem storeDigitCount_spi (n : Byte) : (storeDigitCount n s).spi = s.spi := rfl
@[simp] theorem storeDigitCount_events (n : Byte) : (storeDigitCount n s).events = s.events := rfl
@[simp] theorem storeDigitCount_frames (n : Byte) : (storeDigitCount n s).frames = s.frames := rfl
@[simp] theorem storeDigitCount_returns (n : Byte) : (storeDigitCount n s).returns = s.returns := rfl
@[simp] theorem storeDigitCount_sink (n : Byte) : (storeDigitCount n s).sink = s.sink := rfl
@[simp] theorem storeDigitCount_busReady (n : Byte) : (storeDigitCount n s).busReady = s.busReady := rfl
@[simp] theorem storeDigitCount_pending (n : Byte) : (storeDigitCount n s).pending = s.pending := rfl
@[simp] theorem storeDigitCount_freeCount (n : Byte) : (storeDigitCount n s).freeCount = s.freeCount := rfl

/-! #### storeDecodeMode -/

@[simp] theorem storeDecodeMode_transport (m : Byte) : (storeDecodeMode m s).transport = s.transport := rfl
@[simp] theorem storeDecodeMode_commDelay (m : Byte) : (storeDecodeMode m s).commDelay = s.commDelay := rfl
@[simp] theorem storeDecodeMode_session (m : Byte) : (storeDecodeMode m s).session = s.session := rfl
@[simp] theorem storeDecodeMode_digitCount (m : Byte) : (storeDecodeMode m s).digitCount = s.digitCount := rfl
@[simp] theorem storeDecodeMode_decodeMode (m : Byte) : (storeDecodeMode m s).decodeMode = Reg.stored m := rfl
@[simp] theorem storeDecodeMode_intensity (m : Byte) : (storeDecodeMode m s).intensity = s.intensity := rfl
@[simp] theorem storeDecodeMode_shutdown (m : Byte) : (storeDecodeMode m s).shutdown = s.shutdown := rfl
@[simp] theorem storeDecodeMode_displayTest (m : Byte) : (storeDecodeMode m s).displayTest = s.displayTest := rfl
@[simp] theorem storeDecodeMode_busy (m : Byte) : (storeDecodeMode m s).busy = s.busy := rfl
@[simp] theorem storeDecodeMode_sr (m : Byte) : (storeDecodeMode m s).sr = s.sr := rfl
@[simp] theorem storeDecodeMode_pos (m : Byte) : (storeDecodeMode m s).pos = s.pos := rfl
@[simp] theorem storeDecodeMode_lines (m : Byte) : (storeDecodeMode m s).lines = s.lines := rfl
@[simp] theorem storeDecodeMode_spi (m : Byte) : (storeDecodeMode m s).spi = s.spi := rfl
@[simp] theorem storeDecodeMode_events (m : Byte) : (storeDecodeMode m s).events = s.events := rfl
@[simp] theorem storeDecodeMode_frames (m : Byte) : (storeDecodeMode m s).frames = s.frames := rfl
@[simp] theorem storeDecodeMode_returns (m : Byte) : (storeDecodeMode m s).returns = s.returns := rfl
@[simp] theorem storeDecodeMode_sink (m : Byte) : (storeDecodeMode m s).sink = s.sink := rfl
@[simp] theorem storeDecodeMode_busReady (m : Byte) : (storeDecodeMode m s).busReady = s.busReady := rfl
@[simp] theorem storeDecodeMode_pending (m : Byte) : (storeDecodeMode m s).pending = s.pending := rfl
@[simp] theorem storeDecodeMode_freeCount (m : Byte) : (storeDecodeMode m s).freeCount = s.freeCount := rfl

/-! #### storeIntensity -/

@[simp] theorem storeIntensity_transport (v : Byte) : (storeIntensity v s).transport = s.transport := rfl
@[simp] theorem storeIntensity_commDelay (v : Byte) : (storeIntensity v s).commDelay = s.commDelay := rfl
@[simp] theorem storeIntensity_session (v : Byte) : (storeIntensity v s).session = s.session := rfl
@[simp] theorem storeIntensity_digitCount (v : Byte) : (storeIntensity v s).digitCount = s.digitCount := rfl
@[simp] theorem storeIntensity_decodeMode (v : Byte) : (storeIntensity v s).decodeMode = s.decodeMode := rfl
@[simp] theorem storeIntensity_intensity (v : Byte) : (storeIntensity v s).intensity = Reg.stored v := rfl
@[simp] theorem storeIntensity_shutdown (v : Byte) : (storeIntensity v s).shutdown = s.shutdown := rfl
@[simp] theorem storeIntensity_displayTest (v : Byte) : (storeIntensity v s).displayTest = s.displayTest := rfl
@[simp] theorem storeIntensity_busy (v : Byte) : (storeIntensity v s).busy = s.busy := rfl
@[simp] theorem storeIntensity_sr (v : Byte) : (storeIntensity v s).sr = s.sr := rfl
@[simp] theorem storeIntensity_pos (v : Byte) : (storeIntensity v s).pos = s.pos := rfl
@[simp] theorem storeIntensity_lines (v : Byte) : (storeIntensity v s).lines = s.lines := rfl
@[simp] theorem storeIntensity_spi (v : Byte) : (storeIntensity v s).spi = s.spi := rfl
@[simp] theorem storeIntensity_events (v : Byte) : (storeIntensity v s).events = s.events := rfl
@[simp] theorem storeIntensity_frames (v : Byte) : (storeIntensity v s).frames = s.frames := rfl
@[simp] theorem storeIntensity_returns (v : Byte) : (storeIntensity v s).returns = s.returns := rfl
@[simp] theorem storeIntensity_sink (v : Byte) : (storeIntensity v s).sink = s.sink := rfl
@[simp] theorem storeIntensity_busReady (v : Byte) : (storeIntensity v s).busReady = s.busReady := rfl
@[simp] theorem storeIntensity_pending (v : Byte) : (storeIntensity v s).pending = s.pending := rfl
@[simp] theorem storeIntensity_freeCount (v : Byte) : (storeIntensity v s).freeCount = s.freeCount := rfl

/-! #### storeShutdown -/

@[simp] theorem storeShutdown_transport (on : Bool) : (storeShutdown on s).transport = s.transport := rfl
@[simp] theorem storeShutdown_commDelay (on : Bool) : (storeShutdown on s).commDelay = s.commDelay := rfl
@[simp] theorem storeShutdown_session (on : Bool) : (storeShutdown on s).session = s.session := rfl
@[simp] theorem storeShutdown_digitCount (on : Bool) : (storeShutdown on s).digitCount = s.digitCount := rfl
@[simp] theorem storeShutdown_decodeMode (on : Bool) : (storeShutdown on s).decodeMode = s.decodeMode := rfl
@[simp] theorem storeShutdown_intensity (on : Bool) : (storeShutdown on s).intensity = s.intensity := rfl
@[simp] theorem storeShutdown_shutdown (on : Bool) : (storeShutdown on s).shutdown = Reg.stored on := rfl
@[simp] theorem storeShutdown_displayTest (on : Bool) : (storeShutdown on s).displayTest = s.displayTest := rfl
@[simp] theorem storeShutdown_busy (on : Bool) : (storeShutdown on s).busy = s.busy := rfl
@[simp] theorem storeShutdown_sr (on : Bool) : (storeShutdown on s).sr = s.sr := rfl
@[simp] theorem storeShutdown_pos (on : Bool) : (storeShutdown on s).pos = s.pos := rfl
@[simp] theorem storeShutdown_lines (on : Bool) : (storeShutdown on s).lines = s.lines := rfl
@[simp] theorem storeShutdown_spi (on : Bool) : (storeShutdown on s).spi = s.spi := rfl
@[simp] theorem storeShutdown_events (on : Bool) : (storeShutdown on s).events = s.events := rfl
@[simp] theorem storeShutdown_frames (on : Bool) : (storeShutdown on s).frames = s.frames := rfl
@[simp] theorem storeShutdown_returns (on : Bool) : (storeShutdown on s).returns = s.returns := rfl
@[simp] theorem storeShutdown_sink (on : Bool) : (storeShutdown on s).sink = s.sink := rfl
@[simp] theorem storeShutdown_busReady (on : Bool) : (storeShutdown on s).busReady = s.busReady := rfl
@[simp] theorem storeShutdown_pending (on : Bool) : (storeShutdown on s).pending = s.pending := rfl
@[simp] theorem storeShutdown_freeCount (on : Bool) : (storeShutdown on s).freeCount = s.freeCount := rfl

/-! #### storeDisplayTest -/

@[simp] theorem storeDisplayTest_transport (on : Bool) : (storeDisplayTest on s).transport = s.transport := rfl
@[simp] theorem storeDisplayTest_commDelay (on : Bool) : (storeDisplayTest on s).commDelay = s.commDelay := rfl
@[simp] theorem storeDisplayTest_session (on : Bool) : (storeDisplayTest on s).session = s.session := rfl
@[simp] theorem storeDisplayTest_digitCount (on : Bool) : (storeDisplayTest on s).digitCount = s.digitCount := rfl
@[simp] theorem storeDisplayTest_decodeMode (on : Bool) : (storeDisplayTest on s).decodeMode = s.decodeMode := rfl
@[simp] theorem storeDisplayTest_intensity (on : Bool) : (storeDisplayTest on s).intensity = s.intensity := rfl
@[simp] theorem storeDisplayTest_shutdown (on : Bool) : (storeDisplayTest on s).shutdown = s.shutdown := rfl
@[simp] theorem storeDisplayTest_displayTest (on : Bool) : (storeDisplayTest on s).displayTest = Reg.stored on := rfl
@[simp] theorem storeDisplayTest_busy (on : Bool) : (storeDisplayTest on s).busy = s.busy := rfl
@[simp] theorem storeDisplayTest_sr (on : Bool) : (storeDisplayTest on s).sr = s.sr := rfl
@[simp] theorem storeDisplayTest_pos (on : Bool) : (storeDisplayTest on s).pos = s.pos := rfl
@[simp] theorem storeDisplayTest_lines (on : Bool) : (storeDisplayTest on s).lines = s.lines := rfl
@[simp] theorem storeDisplayTest_spi (on : Bool) : (storeDisplayTest on s).spi = s.spi := rfl
@[simp] theorem storeDisplayTest_events (on : Bool) : (storeDisplayTest on s).events = s.events := rfl
@[simp] theorem storeDisplayTest_frames (on : Bool) : (storeDisplayTest on s).frames = s.frames := rfl
@[simp] theorem storeDisplayTest_returns (on : Bool) : (storeDisplayTest on s).returns = s.returns := rfl
@[simp] theorem storeDisplayTest_sink (on : Bool) : (storeDisplayTest on s).sink = s.sink := rfl
@[simp] theorem storeDisplayTest_busReady (on : Bool) : (storeDisplayTest on s).busReady = s.busReady := rfl
@[simp] theorem storeDisplayTest_pending (on : Bool) : (storeDisplayTest on s).pending = s.pending := rfl
@[simp] theorem storeDisplayTest_freeCount (on : Bool) : (storeDisplayTest on s).freeCount = s.freeCount := rfl

/-! #### storeCommDelay -/

@[simp] theorem storeCommDelay_transport (us : CommDelay) : (storeCommDelay us s).transport = s.transport := rfl
@[simp] theorem storeCommDelay_commDelay (us : CommDelay) : (storeCommDelay us s).commDelay = us := rfl
@[simp] theorem storeCommDelay_session (us : CommDelay) : (storeCommDelay us s).session = s.session := rfl
@[simp] theorem storeCommDelay_digitCount (us : CommDelay) : (storeCommDelay us s).digitCount = s.digitCount := rfl
@[simp] theorem storeCommDelay_decodeMode (us : CommDelay) : (storeCommDelay us s).decodeMode = s.decodeMode := rfl
@[simp] theorem storeCommDelay_intensity (us : CommDelay) : (storeCommDelay us s).intensity = s.intensity := rfl
@[simp] theorem storeCommDelay_shutdown (us : CommDelay) : (storeCommDelay us s).shutdown = s.shutdown := rfl
@[simp] theorem storeCommDelay_displayTest (us : CommDelay) : (storeCommDelay us s).displayTest = s.displayTest := rfl
@[simp] theorem storeCommDelay_busy (us : CommDelay) : (storeCommDelay us s).busy = s.busy := rfl
@[simp] theorem storeCommDelay_sr (us : CommDelay) : (storeCommDelay us s).sr = s.sr := rfl
@[simp] theorem storeCommDelay_pos (us : CommDelay) : (storeCommDelay us s).pos = s.pos := rfl
@[simp] theorem storeCommDelay_lines (us : CommDelay) : (storeCommDelay us s).lines = s.lines := rfl
@[simp] theorem storeCommDelay_spi (us : CommDelay) : (storeCommDelay us s).spi = s.spi := rfl
@[simp] theorem storeCommDelay_events (us : CommDelay) : (storeCommDelay us s).events = s.events := rfl
@[simp] theorem storeCommDelay_frames (us : CommDelay) : (storeCommDelay us s).frames = s.frames := rfl
@[simp] theorem storeCommDelay_returns (us : CommDelay) : (storeCommDelay us s).returns = s.returns := rfl
@[simp] theorem storeCommDelay_sink (us : CommDelay) : (storeCommDelay us s).sink = s.sink := rfl
@[simp] theorem storeCommDelay_busReady (us : CommDelay) : (storeCommDelay us s).busReady = s.busReady := rfl
@[simp] theorem storeCommDelay_pending (us : CommDelay) : (storeCommDelay us s).pending = s.pending := rfl
@[simp] theorem storeCommDelay_freeCount (us : CommDelay) : (storeCommDelay us s).freeCount = s.freeCount := rfl

/-! #### loadShift -/

@[simp] theorem loadShift_transport (w : FrameWord) : (loadShift w s).transport = s.transport := rfl
@[simp] theorem loadShift_commDelay (w : FrameWord) : (loadShift w s).commDelay = s.commDelay := rfl
@[simp] theorem loadShift_session (w : FrameWord) : (loadShift w s).session = s.session := rfl
@[simp] theorem loadShift_digitCount (w : FrameWord) : (loadShift w s).digitCount = s.digitCount := rfl
@[simp] theorem loadShift_decodeMode (w : FrameWord) : (loadShift w s).decodeMode = s.decodeMode := rfl
@[simp] theorem loadShift_intensity (w : FrameWord) : (loadShift w s).intensity = s.intensity := rfl
@[simp] theorem loadShift_shutdown (w : FrameWord) : (loadShift w s).shutdown = s.shutdown := rfl
@[simp] theorem loadShift_displayTest (w : FrameWord) : (loadShift w s).displayTest = s.displayTest := rfl
@[simp] theorem loadShift_busy (w : FrameWord) : (loadShift w s).busy = s.busy := rfl
@[simp] theorem loadShift_sr (w : FrameWord) : (loadShift w s).sr = Reg.stored w := rfl
@[simp] theorem loadShift_pos (w : FrameWord) : (loadShift w s).pos = s.pos := rfl
@[simp] theorem loadShift_lines (w : FrameWord) : (loadShift w s).lines = s.lines := rfl
@[simp] theorem loadShift_spi (w : FrameWord) : (loadShift w s).spi = s.spi := rfl
@[simp] theorem loadShift_events (w : FrameWord) : (loadShift w s).events = s.events := rfl
@[simp] theorem loadShift_frames (w : FrameWord) : (loadShift w s).frames = s.frames := rfl
@[simp] theorem loadShift_returns (w : FrameWord) : (loadShift w s).returns = s.returns := rfl
@[simp] theorem loadShift_sink (w : FrameWord) : (loadShift w s).sink = s.sink := rfl
@[simp] theorem loadShift_busReady (w : FrameWord) : (loadShift w s).busReady = s.busReady := rfl
@[simp] theorem loadShift_pending (w : FrameWord) : (loadShift w s).pending = s.pending := rfl
@[simp] theorem loadShift_freeCount (w : FrameWord) : (loadShift w s).freeCount = s.freeCount := rfl

/-! #### setPos -/

@[simp] theorem setPos_transport (p : EnginePos) : (setPos p s).transport = s.transport := rfl
@[simp] theorem setPos_commDelay (p : EnginePos) : (setPos p s).commDelay = s.commDelay := rfl
@[simp] theorem setPos_session (p : EnginePos) : (setPos p s).session = s.session := rfl
@[simp] theorem setPos_digitCount (p : EnginePos) : (setPos p s).digitCount = s.digitCount := rfl
@[simp] theorem setPos_decodeMode (p : EnginePos) : (setPos p s).decodeMode = s.decodeMode := rfl
@[simp] theorem setPos_intensity (p : EnginePos) : (setPos p s).intensity = s.intensity := rfl
@[simp] theorem setPos_shutdown (p : EnginePos) : (setPos p s).shutdown = s.shutdown := rfl
@[simp] theorem setPos_displayTest (p : EnginePos) : (setPos p s).displayTest = s.displayTest := rfl
@[simp] theorem setPos_busy (p : EnginePos) : (setPos p s).busy = s.busy := rfl
@[simp] theorem setPos_sr (p : EnginePos) : (setPos p s).sr = s.sr := rfl
@[simp] theorem setPos_pos (p : EnginePos) : (setPos p s).pos = p := rfl
@[simp] theorem setPos_lines (p : EnginePos) : (setPos p s).lines = s.lines := rfl
@[simp] theorem setPos_spi (p : EnginePos) : (setPos p s).spi = s.spi := rfl
@[simp] theorem setPos_events (p : EnginePos) : (setPos p s).events = s.events := rfl
@[simp] theorem setPos_frames (p : EnginePos) : (setPos p s).frames = s.frames := rfl
@[simp] theorem setPos_returns (p : EnginePos) : (setPos p s).returns = s.returns := rfl
@[simp] theorem setPos_sink (p : EnginePos) : (setPos p s).sink = s.sink := rfl
@[simp] theorem setPos_busReady (p : EnginePos) : (setPos p s).busReady = s.busReady := rfl
@[simp] theorem setPos_pending (p : EnginePos) : (setPos p s).pending = s.pending := rfl
@[simp] theorem setPos_freeCount (p : EnginePos) : (setPos p s).freeCount = s.freeCount := rfl

/-! #### recordFrame -/

@[simp] theorem recordFrame_transport (a d : Byte) : (recordFrame a d s).transport = s.transport := rfl
@[simp] theorem recordFrame_commDelay (a d : Byte) : (recordFrame a d s).commDelay = s.commDelay := rfl
@[simp] theorem recordFrame_session (a d : Byte) : (recordFrame a d s).session = s.session := rfl
@[simp] theorem recordFrame_digitCount (a d : Byte) : (recordFrame a d s).digitCount = s.digitCount := rfl
@[simp] theorem recordFrame_decodeMode (a d : Byte) : (recordFrame a d s).decodeMode = s.decodeMode := rfl
@[simp] theorem recordFrame_intensity (a d : Byte) : (recordFrame a d s).intensity = s.intensity := rfl
@[simp] theorem recordFrame_shutdown (a d : Byte) : (recordFrame a d s).shutdown = s.shutdown := rfl
@[simp] theorem recordFrame_displayTest (a d : Byte) : (recordFrame a d s).displayTest = s.displayTest := rfl
@[simp] theorem recordFrame_busy (a d : Byte) : (recordFrame a d s).busy = s.busy := rfl
@[simp] theorem recordFrame_sr (a d : Byte) : (recordFrame a d s).sr = s.sr := rfl
@[simp] theorem recordFrame_pos (a d : Byte) : (recordFrame a d s).pos = s.pos := rfl
@[simp] theorem recordFrame_lines (a d : Byte) : (recordFrame a d s).lines = s.lines := rfl
@[simp] theorem recordFrame_spi (a d : Byte) : (recordFrame a d s).spi = s.spi := rfl
@[simp] theorem recordFrame_events (a d : Byte) : (recordFrame a d s).events = s.events := rfl
@[simp] theorem recordFrame_frames (a d : Byte) : (recordFrame a d s).frames = s.frames ++ [⟨a, d⟩] := rfl
@[simp] theorem recordFrame_returns (a d : Byte) : (recordFrame a d s).returns = s.returns := rfl
@[simp] theorem recordFrame_sink (a d : Byte) : (recordFrame a d s).sink = s.sink := rfl
@[simp] theorem recordFrame_busReady (a d : Byte) : (recordFrame a d s).busReady = s.busReady := rfl
@[simp] theorem recordFrame_pending (a d : Byte) : (recordFrame a d s).pending = s.pending := rfl
@[simp] theorem recordFrame_freeCount (a d : Byte) : (recordFrame a d s).freeCount = s.freeCount := rfl

/-! #### returnToHost -/

@[simp] theorem returnToHost_transport (v : CommDelay) : (returnToHost v s).transport = s.transport := rfl
@[simp] theorem returnToHost_commDelay (v : CommDelay) : (returnToHost v s).commDelay = s.commDelay := rfl
@[simp] theorem returnToHost_session (v : CommDelay) : (returnToHost v s).session = s.session := rfl
@[simp] theorem returnToHost_digitCount (v : CommDelay) : (returnToHost v s).digitCount = s.digitCount := rfl
@[simp] theorem returnToHost_decodeMode (v : CommDelay) : (returnToHost v s).decodeMode = s.decodeMode := rfl
@[simp] theorem returnToHost_intensity (v : CommDelay) : (returnToHost v s).intensity = s.intensity := rfl
@[simp] theorem returnToHost_shutdown (v : CommDelay) : (returnToHost v s).shutdown = s.shutdown := rfl
@[simp] theorem returnToHost_displayTest (v : CommDelay) : (returnToHost v s).displayTest = s.displayTest := rfl
@[simp] theorem returnToHost_busy (v : CommDelay) : (returnToHost v s).busy = s.busy := rfl
@[simp] theorem returnToHost_sr (v : CommDelay) : (returnToHost v s).sr = s.sr := rfl
@[simp] theorem returnToHost_pos (v : CommDelay) : (returnToHost v s).pos = s.pos := rfl
@[simp] theorem returnToHost_lines (v : CommDelay) : (returnToHost v s).lines = s.lines := rfl
@[simp] theorem returnToHost_spi (v : CommDelay) : (returnToHost v s).spi = s.spi := rfl
@[simp] theorem returnToHost_events (v : CommDelay) : (returnToHost v s).events = s.events := rfl
@[simp] theorem returnToHost_frames (v : CommDelay) : (returnToHost v s).frames = s.frames := rfl
@[simp] theorem returnToHost_returns (v : CommDelay) : (returnToHost v s).returns = s.returns ++ [v] := rfl
@[simp] theorem returnToHost_sink (v : CommDelay) : (returnToHost v s).sink = s.sink := rfl
@[simp] theorem returnToHost_busReady (v : CommDelay) : (returnToHost v s).busReady = s.busReady := rfl
@[simp] theorem returnToHost_pending (v : CommDelay) : (returnToHost v s).pending = s.pending := rfl
@[simp] theorem returnToHost_freeCount (v : CommDelay) : (returnToHost v s).freeCount = s.freeCount := rfl

/-! #### takeInput -/

@[simp] theorem takeInput_transport (rest : List Input) : (takeInput rest s).transport = s.transport := rfl
@[simp] theorem takeInput_commDelay (rest : List Input) : (takeInput rest s).commDelay = s.commDelay := rfl
@[simp] theorem takeInput_session (rest : List Input) : (takeInput rest s).session = s.session := rfl
@[simp] theorem takeInput_digitCount (rest : List Input) : (takeInput rest s).digitCount = s.digitCount := rfl
@[simp] theorem takeInput_decodeMode (rest : List Input) : (takeInput rest s).decodeMode = s.decodeMode := rfl
@[simp] theorem takeInput_intensity (rest : List Input) : (takeInput rest s).intensity = s.intensity := rfl
@[simp] theorem takeInput_shutdown (rest : List Input) : (takeInput rest s).shutdown = s.shutdown := rfl
@[simp] theorem takeInput_displayTest (rest : List Input) : (takeInput rest s).displayTest = s.displayTest := rfl
@[simp] theorem takeInput_busy (rest : List Input) : (takeInput rest s).busy = s.busy := rfl
@[simp] theorem takeInput_sr (rest : List Input) : (takeInput rest s).sr = s.sr := rfl
@[simp] theorem takeInput_pos (rest : List Input) : (takeInput rest s).pos = s.pos := rfl
@[simp] theorem takeInput_lines (rest : List Input) : (takeInput rest s).lines = s.lines := rfl
@[simp] theorem takeInput_spi (rest : List Input) : (takeInput rest s).spi = s.spi := rfl
@[simp] theorem takeInput_events (rest : List Input) : (takeInput rest s).events = s.events := rfl
@[simp] theorem takeInput_frames (rest : List Input) : (takeInput rest s).frames = s.frames := rfl
@[simp] theorem takeInput_returns (rest : List Input) : (takeInput rest s).returns = s.returns := rfl
@[simp] theorem takeInput_sink (rest : List Input) : (takeInput rest s).sink = s.sink := rfl
@[simp] theorem takeInput_busReady (rest : List Input) : (takeInput rest s).busReady = s.busReady := rfl
@[simp] theorem takeInput_pending (rest : List Input) : (takeInput rest s).pending = rest := rfl
@[simp] theorem takeInput_freeCount (rest : List Input) : (takeInput rest s).freeCount = s.freeCount := rfl

/-! #### reportBus -/

@[simp] theorem reportBus_transport (r : Bool) : (reportBus r s).transport = s.transport := rfl
@[simp] theorem reportBus_commDelay (r : Bool) : (reportBus r s).commDelay = s.commDelay := rfl
@[simp] theorem reportBus_session (r : Bool) : (reportBus r s).session = s.session := rfl
@[simp] theorem reportBus_digitCount (r : Bool) : (reportBus r s).digitCount = s.digitCount := rfl
@[simp] theorem reportBus_decodeMode (r : Bool) : (reportBus r s).decodeMode = s.decodeMode := rfl
@[simp] theorem reportBus_intensity (r : Bool) : (reportBus r s).intensity = s.intensity := rfl
@[simp] theorem reportBus_shutdown (r : Bool) : (reportBus r s).shutdown = s.shutdown := rfl
@[simp] theorem reportBus_displayTest (r : Bool) : (reportBus r s).displayTest = s.displayTest := rfl
@[simp] theorem reportBus_busy (r : Bool) : (reportBus r s).busy = s.busy := rfl
@[simp] theorem reportBus_sr (r : Bool) : (reportBus r s).sr = s.sr := rfl
@[simp] theorem reportBus_pos (r : Bool) : (reportBus r s).pos = s.pos := rfl
@[simp] theorem reportBus_lines (r : Bool) : (reportBus r s).lines = s.lines := rfl
@[simp] theorem reportBus_spi (r : Bool) : (reportBus r s).spi = s.spi := rfl
@[simp] theorem reportBus_events (r : Bool) : (reportBus r s).events = s.events := rfl
@[simp] theorem reportBus_frames (r : Bool) : (reportBus r s).frames = s.frames := rfl
@[simp] theorem reportBus_returns (r : Bool) : (reportBus r s).returns = s.returns := rfl
@[simp] theorem reportBus_sink (r : Bool) : (reportBus r s).sink = s.sink := rfl
@[simp] theorem reportBus_busReady (r : Bool) : (reportBus r s).busReady = r := rfl
@[simp] theorem reportBus_pending (r : Bool) : (reportBus r s).pending = s.pending := rfl
@[simp] theorem reportBus_freeCount (r : Bool) : (reportBus r s).freeCount = s.freeCount := rfl

/-! #### presentFirst -/

@[simp] theorem presentFirst_transport (e : Encoded) : (presentFirst e s).transport = s.transport := rfl
@[simp] theorem presentFirst_commDelay (e : Encoded) : (presentFirst e s).commDelay = s.commDelay := rfl
@[simp] theorem presentFirst_session (e : Encoded) : (presentFirst e s).session = s.session := rfl
@[simp] theorem presentFirst_digitCount (e : Encoded) : (presentFirst e s).digitCount = s.digitCount := rfl
@[simp] theorem presentFirst_decodeMode (e : Encoded) : (presentFirst e s).decodeMode = s.decodeMode := rfl
@[simp] theorem presentFirst_intensity (e : Encoded) : (presentFirst e s).intensity = s.intensity := rfl
@[simp] theorem presentFirst_shutdown (e : Encoded) : (presentFirst e s).shutdown = s.shutdown := rfl
@[simp] theorem presentFirst_displayTest (e : Encoded) : (presentFirst e s).displayTest = s.displayTest := rfl
@[simp] theorem presentFirst_busy (e : Encoded) : (presentFirst e s).busy = s.busy := rfl
@[simp] theorem presentFirst_sr (e : Encoded) : (presentFirst e s).sr = s.sr := rfl
@[simp] theorem presentFirst_pos (e : Encoded) : (presentFirst e s).pos = s.pos := rfl
@[simp] theorem presentFirst_lines (e : Encoded) : (presentFirst e s).lines = s.lines := rfl
@[simp] theorem presentFirst_spi (e : Encoded) : (presentFirst e s).spi = s.spi := rfl
@[simp] theorem presentFirst_events (e : Encoded) : (presentFirst e s).events = s.events := rfl
@[simp] theorem presentFirst_frames (e : Encoded) : (presentFirst e s).frames = s.frames := rfl
@[simp] theorem presentFirst_returns (e : Encoded) : (presentFirst e s).returns = s.returns := rfl
@[simp] theorem presentFirst_sink (e : Encoded) : (presentFirst e s).sink = s.sink := rfl
@[simp] theorem presentFirst_busReady (e : Encoded) : (presentFirst e s).busReady = s.busReady := rfl
@[simp] theorem presentFirst_pending (e : Encoded) : (presentFirst e s).pending = .present e :: s.pending := rfl
@[simp] theorem presentFirst_freeCount (e : Encoded) : (presentFirst e s).freeCount = s.freeCount := rfl

/-! #### emitAll -/

@[simp] theorem emitAll_transport (es : List Event) : (emitAll es s).transport = s.transport := rfl
@[simp] theorem emitAll_commDelay (es : List Event) : (emitAll es s).commDelay = s.commDelay := rfl
@[simp] theorem emitAll_session (es : List Event) : (emitAll es s).session = s.session := rfl
@[simp] theorem emitAll_digitCount (es : List Event) : (emitAll es s).digitCount = s.digitCount := rfl
@[simp] theorem emitAll_decodeMode (es : List Event) : (emitAll es s).decodeMode = s.decodeMode := rfl
@[simp] theorem emitAll_intensity (es : List Event) : (emitAll es s).intensity = s.intensity := rfl
@[simp] theorem emitAll_shutdown (es : List Event) : (emitAll es s).shutdown = s.shutdown := rfl
@[simp] theorem emitAll_displayTest (es : List Event) : (emitAll es s).displayTest = s.displayTest := rfl
@[simp] theorem emitAll_busy (es : List Event) : (emitAll es s).busy = s.busy := rfl
@[simp] theorem emitAll_sr (es : List Event) : (emitAll es s).sr = s.sr := rfl
@[simp] theorem emitAll_pos (es : List Event) : (emitAll es s).pos = s.pos := rfl
@[simp] theorem emitAll_lines (es : List Event) : (emitAll es s).lines = linesAfterAll s.transport es s.lines := rfl
@[simp] theorem emitAll_spi (es : List Event) : (emitAll es s).spi = spiAfterAll es s.spi := rfl
@[simp] theorem emitAll_events (es : List Event) : (emitAll es s).events = s.events ++ es := rfl
@[simp] theorem emitAll_frames (es : List Event) : (emitAll es s).frames = s.frames := rfl
@[simp] theorem emitAll_returns (es : List Event) : (emitAll es s).returns = s.returns := rfl
@[simp] theorem emitAll_sink (es : List Event) : (emitAll es s).sink = s.sink := rfl
@[simp] theorem emitAll_busReady (es : List Event) : (emitAll es s).busReady = s.busReady := rfl
@[simp] theorem emitAll_pending (es : List Event) : (emitAll es s).pending = s.pending := rfl
@[simp] theorem emitAll_freeCount (es : List Event) : (emitAll es s).freeCount = s.freeCount := rfl

/-! #### construct -/

@[simp] theorem construct_transport (t : Transport) : (construct t s).transport = t := rfl
@[simp] theorem construct_commDelay (t : Transport) : (construct t s).commDelay = 0#16 := rfl
@[simp] theorem construct_session (t : Transport) : (construct t s).session = .uninitialized := rfl
@[simp] theorem construct_digitCount (t : Transport) : (construct t s).digitCount = Reg.unset 0#8 := rfl
@[simp] theorem construct_decodeMode (t : Transport) : (construct t s).decodeMode = Reg.unset 0#8 := rfl
@[simp] theorem construct_intensity (t : Transport) : (construct t s).intensity = Reg.unset 0#8 := rfl
@[simp] theorem construct_shutdown (t : Transport) : (construct t s).shutdown = Reg.unset false := rfl
@[simp] theorem construct_displayTest (t : Transport) : (construct t s).displayTest = Reg.unset false := rfl
@[simp] theorem construct_busy (t : Transport) : (construct t s).busy = false := rfl
@[simp] theorem construct_sr (t : Transport) : (construct t s).sr = Reg.unset 0#16 := rfl
@[simp] theorem construct_pos (t : Transport) : (construct t s).pos = .idle := rfl
@[simp] theorem construct_lines (t : Transport) : (construct t s).lines = Lines.untouched := rfl
@[simp] theorem construct_spi (t : Transport) : (construct t s).spi = Spi.closed := rfl
@[simp] theorem construct_events (t : Transport) : (construct t s).events = [] := rfl
@[simp] theorem construct_frames (t : Transport) : (construct t s).frames = [] := rfl
@[simp] theorem construct_returns (t : Transport) : (construct t s).returns = [] := rfl
@[simp] theorem construct_sink (t : Transport) : (construct t s).sink = s.sink := rfl
@[simp] theorem construct_busReady (t : Transport) : (construct t s).busReady = s.busReady := rfl
@[simp] theorem construct_pending (t : Transport) : (construct t s).pending = s.pending := rfl
@[simp] theorem construct_freeCount (t : Transport) : (construct t s).freeCount = s.freeCount := rfl

/-! #### chipReceive changes the chip's registers and the free-value counter alone -/

@[simp] theorem chipReceive_transport (a d : Byte) : (chipReceive a d s).transport = s.transport := by
  unfold chipReceive; split <;> [rfl; (split <;> rfl)]

@[simp] theorem chipReceive_commDelay (a d : Byte) : (chipReceive a d s).commDelay = s.commDelay := by
  unfold chipReceive; split <;> [rfl; (split <;> rfl)]

@[simp] theorem chipReceive_session (a d : Byte) : (chipReceive a d s).session = s.session := by
  unfold chipReceive; split <;> [rfl; (split <;> rfl)]

@[simp] theorem chipReceive_digitCount (a d : Byte) : (chipReceive a d s).digitCount = s.digitCount := by
  unfold chipReceive; split <;> [rfl; (split <;> rfl)]

@[simp] theorem chipReceive_decodeMode (a d : Byte) : (chipReceive a d s).decodeMode = s.decodeMode := by
  unfold chipReceive; split <;> [rfl; (split <;> rfl)]

@[simp] theorem chipReceive_intensity (a d : Byte) : (chipReceive a d s).intensity = s.intensity := by
  unfold chipReceive; split <;> [rfl; (split <;> rfl)]

@[simp] theorem chipReceive_shutdown (a d : Byte) : (chipReceive a d s).shutdown = s.shutdown := by
  unfold chipReceive; split <;> [rfl; (split <;> rfl)]

@[simp] theorem chipReceive_displayTest (a d : Byte) : (chipReceive a d s).displayTest = s.displayTest := by
  unfold chipReceive; split <;> [rfl; (split <;> rfl)]

@[simp] theorem chipReceive_busy (a d : Byte) : (chipReceive a d s).busy = s.busy := by
  unfold chipReceive; split <;> [rfl; (split <;> rfl)]

@[simp] theorem chipReceive_sr (a d : Byte) : (chipReceive a d s).sr = s.sr := by
  unfold chipReceive; split <;> [rfl; (split <;> rfl)]

@[simp] theorem chipReceive_pos (a d : Byte) : (chipReceive a d s).pos = s.pos := by
  unfold chipReceive; split <;> [rfl; (split <;> rfl)]

@[simp] theorem chipReceive_lines (a d : Byte) : (chipReceive a d s).lines = s.lines := by
  unfold chipReceive; split <;> [rfl; (split <;> rfl)]

@[simp] theorem chipReceive_spi (a d : Byte) : (chipReceive a d s).spi = s.spi := by
  unfold chipReceive; split <;> [rfl; (split <;> rfl)]

@[simp] theorem chipReceive_events (a d : Byte) : (chipReceive a d s).events = s.events := by
  unfold chipReceive; split <;> [rfl; (split <;> rfl)]

@[simp] theorem chipReceive_frames (a d : Byte) : (chipReceive a d s).frames = s.frames := by
  unfold chipReceive; split <;> [rfl; (split <;> rfl)]

@[simp] theorem chipReceive_returns (a d : Byte) : (chipReceive a d s).returns = s.returns := by
  unfold chipReceive; split <;> [rfl; (split <;> rfl)]

@[simp] theorem chipReceive_busReady (a d : Byte) : (chipReceive a d s).busReady = s.busReady := by
  unfold chipReceive; split <;> [rfl; (split <;> rfl)]

@[simp] theorem chipReceive_pending (a d : Byte) : (chipReceive a d s).pending = s.pending := by
  unfold chipReceive; split <;> [rfl; (split <;> rfl)]

/-! #### Registers -/

@[simp] theorem Reg.stored_val {α : Type} (a : α) : (Reg.stored a).val = a := rfl
@[simp] theorem Reg.stored_held {α : Type} (a : α) : (Reg.stored a).held = true := rfl
@[simp] theorem Reg.unset_held {α : Type} (a : α) : (Reg.unset a).held = false := rfl

end Sys2Proof.Machine
end

