-- ==== Sys2Proof/Laws/Memory.lean ====
section
/-! SUPPORT. The chip's registers as memory: read after write, writes leave other registers alone, and every memory
operation keeps the canonical form. -/

namespace Sys2Proof.Machine

@[simp] theorem memRead_nil (code : Nat) : memRead [] code = none := rfl

@[simp] theorem memRead_memWrite_self (m : Memory) (code : Nat) (b : Byte) :
    memRead (memWrite m code b) code = some b := by
  induction m with
  | nil => simp [memWrite, memRead]
  | cons cell m ih =>
    obtain ⟨c, b'⟩ := cell
    simp only [memWrite]
    split
    · simp [memRead]
    · split
      · simp [memRead]
      · rename_i h
        simp only [memRead]
        rw [if_neg (fun hc => h hc.symm), ih]

theorem memRead_memWrite_other (m : Memory) {code other : Nat} (b : Byte) (h : other ≠ code) :
    memRead (memWrite m code b) other = memRead m other := by
  induction m with
  | nil => simp [memWrite, memRead, Ne.symm h]
  | cons cell m ih =>
    obtain ⟨c, b'⟩ := cell
    simp only [memWrite]
    split
    · simp [memRead, Ne.symm h]
    · split
      · rename_i hc
        subst hc
        simp [memRead, Ne.symm h]
      · simp only [memRead, ih]

theorem memRising_mono {low low' : Nat} (h : low' ≤ low) (m : Memory) (hm : memRising low m = true) :
    memRising low' m = true := by
  cases m with
  | nil => rfl
  | cons cell m =>
    simp only [memRising, Bool.and_eq_true, decide_eq_true_eq] at hm ⊢
    exact ⟨by omega, hm.2⟩

theorem memRising_memWrite (low : Nat) (m : Memory) (code : Nat) (b : Byte) (hl : low < code)
    (hm : memRising low m = true) : memRising low (memWrite m code b) = true := by
  induction m generalizing low with
  | nil => simp [memWrite, memRising, hl]
  | cons cell m ih =>
    obtain ⟨c, b'⟩ := cell
    simp only [memRising, Bool.and_eq_true, decide_eq_true_eq] at hm
    simp only [memWrite]
    split
    · simp [memRising, hl, hm.2]; assumption
    · split
      · rename_i hc
        subst hc
        simp [memRising, hl, hm.2]
      · simp only [memRising, Bool.and_eq_true, decide_eq_true_eq]
        exact ⟨hm.1, ih c (by omega) hm.2⟩

theorem memWrite_all (m : Memory) (code : Nat) (b : Byte) (p : Nat → Bool) (hc : p code = true)
    (hm : (m.all fun cell => p cell.1) = true) : ((memWrite m code b).all fun cell => p cell.1) = true := by
  induction m with
  | nil => simp [memWrite, hc]
  | cons cell m ih =>
    obtain ⟨c, b'⟩ := cell
    simp only [List.all_cons, Bool.and_eq_true] at hm
    simp only [memWrite]
    split
    · simp only [List.all_cons, Bool.and_eq_true]
      exact ⟨hc, hm.1, hm.2⟩
    · split
      · simp only [List.all_cons, Bool.and_eq_true]
        exact ⟨hc, hm.2⟩
      · simp only [List.all_cons, Bool.and_eq_true]
        exact ⟨hm.1, ih hm.2⟩

theorem storable_pos {code : Nat} (h : code ∈ storableCodes) : 0 < code := by
  simp [storableCodes] at h
  omega

/-- A write to a storable code keeps the canonical form. -/
theorem memWf_memWrite (m : Memory) {code : Nat} (b : Byte) (hc : code ∈ storableCodes) (hm : memWf m = true) :
    memWf (memWrite m code b) = true := by
  simp only [memWf, Bool.and_eq_true] at hm ⊢
  exact ⟨memRising_memWrite 0 m code b (storable_pos hc) hm.1,
    memWrite_all m code b (fun c => decide (c ∈ storableCodes)) (by simpa using hc) hm.2⟩

theorem memRising_memFrom (f : Nat → Option Byte) (codes : List Nat) (low : Nat)
    (h : (low :: codes).Pairwise (· < ·)) : memRising low (memFrom f codes) = true := by
  induction codes generalizing low with
  | nil => rfl
  | cons c cs ih =>
    obtain ⟨hlow, hrest⟩ := List.pairwise_cons.mp h
    simp only [memFrom]
    split
    · simp only [memRising, Bool.and_eq_true, decide_eq_true_eq]
      exact ⟨hlow c (by simp), ih c hrest⟩
    · exact memRising_mono (Nat.le_of_lt (hlow c (by simp))) _ (ih c hrest)

theorem memFrom_all (f : Nat → Option Byte) (codes : List Nat) (p : Nat → Bool) (h : ∀ c ∈ codes, p c = true) :
    ((memFrom f codes).all fun cell => p cell.1) = true := by
  induction codes with
  | nil => rfl
  | cons c cs ih =>
    have hcs := ih fun c' hc' => h c' (List.mem_cons_of_mem _ hc')
    simp only [memFrom]
    split
    · simp only [List.all_cons, Bool.and_eq_true]
      exact ⟨h c (by simp), hcs⟩
    · exact hcs

/-- A memory of free values is canonical. -/
theorem memWf_memFrom (f : Nat → Option Byte) : memWf (memFrom f storableCodes) = true := by
  simp only [memWf, Bool.and_eq_true]
  exact ⟨memRising_memFrom f storableCodes 0 (by decide),
    memFrom_all f storableCodes (fun c => decide (c ∈ storableCodes)) (fun c hc => by simpa using hc)⟩

/-- Whatever frame the chip receives, its registers stay canonical. -/
theorem memWf_chipReceive (a d : Byte) (s : State) (h : memWf s.sink = true) :
    memWf (chipReceive a d s).sink = true := by
  unfold chipReceive
  split
  · exact h
  · split
    · rename_i hc
      exact memWf_memWrite s.sink d hc h
    · exact memWf_memFrom _

theorem storable_ne_zero {a : Byte} (h : a.toNat ∈ storableCodes) : a ≠ 0x00#8 := by
  intro h0
  subst h0
  exact absurd h (by decide)

/-- A frame for the no-op changes nothing (R39). -/
@[simp] theorem chipReceive_zero (d : Byte) (s : State) : chipReceive 0x00#8 d s = s := rfl

/-- A frame for a register of the chip stores its byte (R38). -/
theorem chipReceive_register {a : Byte} (d : Byte) (s : State) (h : a.toNat ∈ storableCodes) :
    chipReceive a d s = { s with sink := memWrite s.sink a.toNat d } := by
  unfold chipReceive
  rw [if_neg (storable_ne_zero h), if_pos h]

theorem chipReceive_register_read {a : Byte} (d : Byte) (s : State) (h : a.toNat ∈ storableCodes) :
    memRead (chipReceive a d s).sink a.toNat = some d := by
  rw [chipReceive_register d s h]
  exact memRead_memWrite_self _ _ _

theorem chipReceive_register_other {a : Byte} (d : Byte) (s : State) (h : a.toNat ∈ storableCodes) {code : Nat}
    (hc : code ≠ a.toNat) : memRead (chipReceive a d s).sink code = memRead s.sink code := by
  rw [chipReceive_register d s h]
  exact memRead_memWrite_other _ _ hc

theorem chipReceive_register_freeCount {a : Byte} (d : Byte) (s : State) (h : a.toNat ∈ storableCodes) :
    (chipReceive a d s).freeCount = s.freeCount := by
  rw [chipReceive_register d s h]

/-- Receiving a frame writes nothing but the chip's registers and the free-value counter. -/
theorem chipReceive_onlyChip (a d : Byte) (s : State) :
    ∃ chip n, chipReceive a d s = { s with sink := chip, freeCount := n } := by
  unfold chipReceive
  split
  · exact ⟨s.sink, s.freeCount, rfl⟩
  · split <;> exact ⟨_, _, rfl⟩

end Sys2Proof.Machine
end

