-- ==== Sys2Proof/Laws/Frame.lean ====
section
/-! SUPPORT. The bit engine and the frame write: the engine emits the waveform the rules write out, and one lemma per
fact about what a frame write does. -/

namespace Sys2Proof.Machine

open Sys2Proof.Safety

/-! ### The engine -/

/-- The bits of a frame word from bit `n - 1` down to bit 0, as events. -/
def cellsDown (clk din : LineId) (delay : CommDelay) (sr : FrameWord) : Nat → List Event
  | 0 => []
  | n + 1 => bitCell clk din delay.toNat (sr.getLsbD n) ++ cellsDown clk din delay sr n

/-- From the data phase of bit `n`, five events a bit bring the engine to idle, and they are the bit cells. -/
theorem engineRun_cells (clk din : LineId) (delay : CommDelay) (sr : FrameWord) (n : Nat) (h : n < 16) :
    engineRun clk din delay sr (5 * (n + 1)) (.cell ⟨n, h⟩ .data) = (cellsDown clk din delay sr (n + 1), .idle) := by
  induction n with
  | zero => rfl
  | succ n ih =>
    rw [show 5 * (n + 1 + 1) = 5 * (n + 1) + 1 + 1 + 1 + 1 + 1 by ring]
    simp only [engineRun, posNext, ih (Nat.lt_of_succ_lt h)]
    simp [cellsDown, bitCell, cellEvent]

theorem frameWord_low (a d : Byte) {j : Nat} (h : j < 8) : (frameWord a d).getLsbD j = d.getLsbD j := by
  unfold frameWord
  rw [BitVec.getLsbD_append]
  simp [h]

theorem frameWord_high (a d : Byte) (j : Nat) : (frameWord a d).getLsbD (j + 8) = a.getLsbD j := by
  unfold frameWord
  rw [BitVec.getLsbD_append]
  simp

/-- Sixteen cells are the address byte and then the data byte (R139). -/
theorem cellsDown_bytes (clk din : LineId) (delay : CommDelay) (a d : Byte) :
    cellsDown clk din delay (frameWord a d) 16
      = shiftByte clk din delay.toNat a ++ shiftByte clk din delay.toNat d := by
  have hi := frameWord_high a d
  have lo := @frameWord_low a d
  simp only [cellsDown, shiftByte, List.flatMap_cons, List.flatMap_nil, List.append_assoc,
    List.append_nil]
  rw [show (15 : Nat) = 7 + 8 from rfl, show (14 : Nat) = 6 + 8 from rfl, show (13 : Nat) = 5 + 8 from rfl,
    show (12 : Nat) = 4 + 8 from rfl, show (11 : Nat) = 3 + 8 from rfl, show (10 : Nat) = 2 + 8 from rfl,
    show (9 : Nat) = 1 + 8 from rfl]
  rw [hi 7, hi 6, hi 5, hi 4, hi 3, hi 2,
    hi 1]
  rw [show (frameWord a d).getLsbD 8 = a.getLsbD 0 from hi 0]
  rw [lo (show 7 < 8 by omega), lo (show 6 < 8 by omega), lo (show 5 < 8 by omega), lo (show 4 < 8 by omega),
    lo (show 3 < 8 by omega), lo (show 2 < 8 by omega), lo (show 1 < 8 by omega), lo (show 0 < 8 by omega)]

/-- The engine's whole run for a frame: the waveform of R139, and it ends idle. -/
theorem engineRun_frame (clk din : LineId) (delay : CommDelay) (a d : Byte) :
    engineRun clk din delay (frameWord a d) 80 posStart
      = (shiftByte clk din delay.toNat a ++ shiftByte clk din delay.toNat d, .idle) := by
  rw [← cellsDown_bytes]
  exact engineRun_cells clk din delay (frameWord a d) 15 (by omega)

/-! ### Emitting -/

@[simp] theorem linesAfterAll_nil (t : Transport) (ls : Lines) : linesAfterAll t [] ls = ls := rfl

@[simp] theorem spiAfterAll_nil (p : Spi) : spiAfterAll [] p = p := rfl

theorem linesAfterAll_cons (t : Transport) (e : Event) (es : List Event) (ls : Lines) :
    linesAfterAll t (e :: es) ls = linesAfterAll t es (linesAfter t e ls) := rfl

theorem spiAfterAll_cons (e : Event) (es : List Event) (p : Spi) :
    spiAfterAll (e :: es) p = spiAfterAll es (spiAfter e p) := rfl

theorem linesAfterAll_append (t : Transport) (es fs : List Event) (ls : Lines) :
    linesAfterAll t (es ++ fs) ls = linesAfterAll t fs (linesAfterAll t es ls) := List.foldl_append

theorem spiAfterAll_append (es fs : List Event) (p : Spi) :
    spiAfterAll (es ++ fs) p = spiAfterAll fs (spiAfterAll es p) := List.foldl_append

/-- Emitting twice is emitting the concatenation. -/
theorem emitAll_emitAll (es fs : List Event) (s : State) : emitAll fs (emitAll es s) = emitAll (es ++ fs) s := by
  simp [emitAll, linesAfterAll_append, spiAfterAll_append]

/-! ### The frame write -/

/-- On the software path a frame loads the shift register and emits its waveform (R137). -/
theorem frameSW_eq (clk cs din : LineId) (a d : Byte) (s : State) :
    frameSW clk cs din a d s
      = setPos .idle (loadShift (frameWord a d) (emitAll (softwareFrame clk cs din s.commDelay.toNat ⟨a, d⟩) s)) := by
  unfold frameSW shiftOut
  simp only [emitAll_commDelay, emitAll_sr, setPos_commDelay, setPos_sr, setPos_pos, loadShift_sr,
    loadShift_commDelay, Reg.stored_val, engineRun_frame]
  simp [emitAll, setPos, loadShift, softwareFrame, linesAfterAll, spiAfterAll]

/-- The whole frame write, on either path. -/
theorem writeFrame_events (a d : Byte) (s : State) :
    (writeFrame a d s).events = s.events ++ pathEvents s.transport s.commDelay ⟨a, d⟩ := by
  unfold writeFrame frameOnPath pathEvents
  cases h : s.transport with
  | software clk cs din => simp [frameSW_eq]
  | hardware k i => simp [frameHW]

theorem writeFrame_lines (a d : Byte) (s : State) :
    (writeFrame a d s).lines = linesAfterAll s.transport (pathEvents s.transport s.commDelay ⟨a, d⟩) s.lines := by
  unfold writeFrame frameOnPath pathEvents
  cases h : s.transport with
  | software clk cs din => simp [frameSW_eq, h]
  | hardware k i => simp [frameHW, h]

theorem writeFrame_spi (a d : Byte) (s : State) :
    (writeFrame a d s).spi = spiAfterAll (pathEvents s.transport s.commDelay ⟨a, d⟩) s.spi := by
  unfold writeFrame frameOnPath pathEvents
  cases h : s.transport with
  | software clk cs din => simp [frameSW_eq]
  | hardware k i => simp [frameHW]

@[simp] theorem writeFrame_transport (a d : Byte) (s : State) : (writeFrame a d s).transport = s.transport := by
  unfold writeFrame frameOnPath
  split <;> simp [frameSW_eq, frameHW]

@[simp] theorem writeFrame_commDelay (a d : Byte) (s : State) : (writeFrame a d s).commDelay = s.commDelay := by
  unfold writeFrame frameOnPath
  split <;> simp [frameSW_eq, frameHW]

@[simp] theorem writeFrame_session (a d : Byte) (s : State) : (writeFrame a d s).session = s.session := by
  unfold writeFrame frameOnPath
  split <;> simp [frameSW_eq, frameHW]

@[simp] theorem writeFrame_digitCount (a d : Byte) (s : State) : (writeFrame a d s).digitCount = s.digitCount := by
  unfold writeFrame frameOnPath
  split <;> simp [frameSW_eq, frameHW]

@[simp] theorem writeFrame_decodeMode (a d : Byte) (s : State) : (writeFrame a d s).decodeMode = s.decodeMode := by
  unfold writeFrame frameOnPath
  split <;> simp [frameSW_eq, frameHW]

@[simp] theorem writeFrame_intensity (a d : Byte) (s : State) : (writeFrame a d s).intensity = s.intensity := by
  unfold writeFrame frameOnPath
  split <;> simp [frameSW_eq, frameHW]

@[simp] theorem writeFrame_shutdown (a d : Byte) (s : State) : (writeFrame a d s).shutdown = s.shutdown := by
  unfold writeFrame frameOnPath
  split <;> simp [frameSW_eq, frameHW]

@[simp] theorem writeFrame_displayTest (a d : Byte) (s : State) : (writeFrame a d s).displayTest = s.displayTest := by
  unfold writeFrame frameOnPath
  split <;> simp [frameSW_eq, frameHW]

@[simp] theorem writeFrame_busy (a d : Byte) (s : State) : (writeFrame a d s).busy = s.busy := by
  unfold writeFrame frameOnPath
  split <;> simp [frameSW_eq, frameHW]

@[simp] theorem writeFrame_returns (a d : Byte) (s : State) : (writeFrame a d s).returns = s.returns := by
  unfold writeFrame frameOnPath
  split <;> simp [frameSW_eq, frameHW]

@[simp] theorem writeFrame_busReady (a d : Byte) (s : State) : (writeFrame a d s).busReady = s.busReady := by
  unfold writeFrame frameOnPath
  split <;> simp [frameSW_eq, frameHW]

@[simp] theorem writeFrame_pending (a d : Byte) (s : State) : (writeFrame a d s).pending = s.pending := by
  unfold writeFrame frameOnPath
  split <;> simp [frameSW_eq, frameHW]

@[simp] theorem writeFrame_frames (a d : Byte) (s : State) :
    (writeFrame a d s).frames = s.frames ++ [⟨a, d⟩] := by
  unfold writeFrame frameOnPath
  split <;> simp [frameSW_eq, frameHW]

/-- A software frame leaves the engine idle; a hardware frame does not use it (R33, R52). -/
theorem writeFrame_pos (a d : Byte) (s : State) (h : s.pos = .idle) : (writeFrame a d s).pos = .idle := by
  unfold writeFrame frameOnPath
  split <;> simp [frameSW_eq, frameHW, h]

/-- A frame write reaches the chip as the frame's receipt (R147). -/
theorem writeFrame_sink (a d : Byte) (s : State) :
    (writeFrame a d s).sink = (chipReceive a d s).sink := by
  have hs : (recordFrame a d (frameOnPath a d s)).sink = s.sink := by
    unfold frameOnPath
    split <;> simp [frameSW_eq, frameHW]
  have hf : (recordFrame a d (frameOnPath a d s)).freeCount = s.freeCount := by
    unfold frameOnPath
    split <;> simp [frameSW_eq, frameHW]
  simp only [writeFrame, chipReceive]
  split
  · exact hs
  · split
    · simp only [hs]
    · simp only [hs, hf]

theorem writeFrame_freeCount (a d : Byte) (s : State) :
    (writeFrame a d s).freeCount = (chipReceive a d s).freeCount := by
  have hf : (recordFrame a d (frameOnPath a d s)).freeCount = s.freeCount := by
    unfold frameOnPath
    split <;> simp [frameSW_eq, frameHW]
  simp only [writeFrame, chipReceive]
  split
  · exact hf
  · split
    · simp only [hf]
    · simp only [hf]

/-! ### A sequence of frame writes -/

@[simp] theorem writeFrames_nil (s : State) : writeFrames [] s = s := rfl

@[simp] theorem writeFrames_cons (f : Frame) (fs : List Frame) (s : State) :
    writeFrames (f :: fs) s = writeFrames fs (writeFrame f.addr f.data s) := rfl

@[simp] theorem writeFrames_transport (fs : List Frame) (s : State) : (writeFrames fs s).transport = s.transport := by
  induction fs generalizing s with
  | nil => rfl
  | cons f fs ih => simp [ih]

@[simp] theorem writeFrames_commDelay (fs : List Frame) (s : State) : (writeFrames fs s).commDelay = s.commDelay := by
  induction fs generalizing s with
  | nil => rfl
  | cons f fs ih => simp [ih]

@[simp] theorem writeFrames_session (fs : List Frame) (s : State) : (writeFrames fs s).session = s.session := by
  induction fs generalizing s with
  | nil => rfl
  | cons f fs ih => simp [ih]

@[simp] theorem writeFrames_digitCount (fs : List Frame) (s : State) : (writeFrames fs s).digitCount = s.digitCount := by
  induction fs generalizing s with
  | nil => rfl
  | cons f fs ih => simp [ih]

@[simp] theorem writeFrames_decodeMode (fs : List Frame) (s : State) : (writeFrames fs s).decodeMode = s.decodeMode := by
  induction fs generalizing s with
  | nil => rfl
  | cons f fs ih => simp [ih]

@[simp] theorem writeFrames_intensity (fs : List Frame) (s : State) : (writeFrames fs s).intensity = s.intensity := by
  induction fs generalizing s with
  | nil => rfl
  | cons f fs ih => simp [ih]

@[simp] theorem writeFrames_shutdown (fs : List Frame) (s : State) : (writeFrames fs s).shutdown = s.shutdown := by
  induction fs generalizing s with
  | nil => rfl
  | cons f fs ih => simp [ih]

@[simp] theorem writeFrames_displayTest (fs : List Frame) (s : State) : (writeFrames fs s).displayTest = s.displayTest := by
  induction fs generalizing s with
  | nil => rfl
  | cons f fs ih => simp [ih]

@[simp] theorem writeFrames_busy (fs : List Frame) (s : State) : (writeFrames fs s).busy = s.busy := by
  induction fs generalizing s with
  | nil => rfl
  | cons f fs ih => simp [ih]

@[simp] theorem writeFrames_returns (fs : List Frame) (s : State) : (writeFrames fs s).returns = s.returns := by
  induction fs generalizing s with
  | nil => rfl
  | cons f fs ih => simp [ih]

@[simp] theorem writeFrames_busReady (fs : List Frame) (s : State) : (writeFrames fs s).busReady = s.busReady := by
  induction fs generalizing s with
  | nil => rfl
  | cons f fs ih => simp [ih]

@[simp] theorem writeFrames_pending (fs : List Frame) (s : State) : (writeFrames fs s).pending = s.pending := by
  induction fs generalizing s with
  | nil => rfl
  | cons f fs ih => simp [ih]

@[simp] theorem writeFrames_frames (fs : List Frame) (s : State) :
    (writeFrames fs s).frames = s.frames ++ fs := by
  induction fs generalizing s with
  | nil => simp
  | cons f fs ih => simp [ih]

theorem writeFrames_events (fs : List Frame) (s : State) :
    (writeFrames fs s).events = s.events ++ traceOf s.transport s.commDelay fs := by
  induction fs generalizing s with
  | nil => simp [traceOf]
  | cons f fs ih => simp [ih, writeFrame_events, traceOf]

theorem writeFrames_lines (fs : List Frame) (s : State) :
    (writeFrames fs s).lines = linesAfterAll s.transport (traceOf s.transport s.commDelay fs) s.lines := by
  induction fs generalizing s with
  | nil => simp [traceOf]
  | cons f fs ih => simp [ih, writeFrame_lines, traceOf, linesAfterAll_append]

theorem writeFrames_spi (fs : List Frame) (s : State) :
    (writeFrames fs s).spi = spiAfterAll (traceOf s.transport s.commDelay fs) s.spi := by
  induction fs generalizing s with
  | nil => simp [traceOf, spiAfterAll]
  | cons f fs ih => simp [ih, writeFrame_spi, traceOf, spiAfterAll_append]

theorem writeFrames_pos (fs : List Frame) (s : State) (h : s.pos = .idle) : (writeFrames fs s).pos = .idle := by
  induction fs generalizing s with
  | nil => exact h
  | cons f fs ih => exact ih _ (writeFrame_pos _ _ _ h)

theorem memWf_writeFrames (fs : List Frame) (s : State) (h : memWf s.sink = true) :
    memWf (writeFrames fs s).sink = true := by
  induction fs generalizing s with
  | nil => exact h
  | cons f fs ih =>
    refine ih _ ?_
    rw [writeFrame_sink]
    exact memWf_chipReceive _ _ _ h

/-- Frames for registers of the chip leave the others alone. -/
theorem writeFrames_read_other (fs : List Frame) (s : State) (code : Nat)
    (hr : ∀ f ∈ fs, f.addr.toNat ∈ storableCodes) (hc : ∀ f ∈ fs, f.addr.toNat ≠ code) :
    memRead (writeFrames fs s).sink code = memRead s.sink code := by
  induction fs generalizing s with
  | nil => rfl
  | cons f fs ih =>
    rw [writeFrames_cons, ih _ (fun g hg => hr g (List.mem_cons_of_mem _ hg))
      (fun g hg => hc g (List.mem_cons_of_mem _ hg)), writeFrame_sink]
    exact chipReceive_register_other _ _ (hr f (by simp)) (hc f (by simp)).symm

/-- Frames for registers of the chip use no free value. -/
theorem writeFrames_freeCount (fs : List Frame) (s : State) (hr : ∀ f ∈ fs, f.addr.toNat ∈ storableCodes) :
    (writeFrames fs s).freeCount = s.freeCount := by
  induction fs generalizing s with
  | nil => rfl
  | cons f fs ih =>
    rw [writeFrames_cons, ih _ (fun g hg => hr g (List.mem_cons_of_mem _ hg)), writeFrame_freeCount,
      chipReceive_register_freeCount _ _ (hr f (by simp))]

/-- A register of the chip after a frame for a register of the chip (R38). -/
theorem writeFrame_read {a : Byte} (d : Byte) (s : State) (h : a.toNat ∈ storableCodes) (code : Nat) :
    memRead (writeFrame a d s).sink code = if code = a.toNat then some d else memRead s.sink code := by
  rw [writeFrame_sink]
  split
  · rename_i hc
    subst hc
    exact chipReceive_register_read _ _ h
  · rename_i hc
    exact chipReceive_register_other _ _ h hc

/-- The same for a sequence: what no frame addresses stays. -/
theorem writeFrames_outside (fs : List Frame) (s : State) (h : ∀ f ∈ fs, f.addr.toNat ∈ storableCodes) :
    SinkSameOutside (fs.map fun f => f.addr.toNat) s (writeFrames fs s) := by
  intro code hc
  exact writeFrames_read_other fs s code h fun f hf he => hc (List.mem_map.mpr ⟨f, hf, he⟩)

/-! ### What a frame's events leave -/

theorem shiftByte_spi (clk din : LineId) (n : Nat) (v : Byte) (p : Spi) :
    spiAfterAll (shiftByte clk din n v) p = p := by
  simp [shiftByte, bitCell, spiAfterAll, spiAfter]

/-- The bus settings are not written by frames (R142). -/
theorem traceOf_spi (t : Transport) (delay : CommDelay) (fs : List Frame) (p : Spi) :
    spiAfterAll (traceOf t delay fs) p = p := by
  have one : ∀ f, spiAfterAll (pathEvents t delay f) p = p := by
    intro f
    cases t <;> simp [pathEvents, softwareFrame, spiAfterAll_cons, spiAfterAll_append, shiftByte_spi, spiAfter]
  induction fs with
  | nil => rfl
  | cons f fs ih =>
    simp only [traceOf, List.flatMap_cons, spiAfterAll_append, one]
    exact ih

/-- The hardware path has no lines and no bit engine (R34, R142). -/
theorem writeFrame_hardware (a d : Byte) (s : State) (h : hardwareActive s = true) :
    (writeFrame a d s).lines = s.lines ∧ (writeFrame a d s).sr = s.sr ∧ (writeFrame a d s).pos = s.pos := by
  unfold writeFrame frameOnPath
  cases ht : s.transport with
  | software => simp [hardwareActive, ht] at h
  | hardware k i => simp [frameHW, linesAfterAll, linesAfter, ht]

theorem writeFrames_hardware (fs : List Frame) (s : State) (h : hardwareActive s = true) :
    (writeFrames fs s).lines = s.lines ∧ (writeFrames fs s).sr = s.sr ∧ (writeFrames fs s).pos = s.pos := by
  induction fs generalizing s with
  | nil => simp
  | cons f fs ih =>
    obtain ⟨h1, h2, h3⟩ := ih (writeFrame f.addr f.data s) (by simpa [hardwareActive] using h)
    obtain ⟨g1, g2, g3⟩ := writeFrame_hardware f.addr f.data s h
    simp [h1, h2, h3, g1, g2, g3]

/-- What a command's sequence of frames does besides the chip and the shadows. -/
theorem writeFrames_delivered (fs : List Frame) (s : State) :
    Delivered s fs (setBusy false (writeFrames fs (setBusy true s))) where
  frames := by simp
  events := by simp [writeFrames_events]
  setting := by simp [SameSetting]
  commDelay := by simp
  session := by simp
  returns := by simp
  busy := by simp
  spi := by simp [writeFrames_spi, traceOf_spi]
  lines := by simp [writeFrames_lines]
  engine := fun h => writeFrames_pos fs (setBusy true s) h
  hardware := fun h => by simpa using writeFrames_hardware fs (setBusy true s) (by simpa [hardwareActive] using h)

/-- A byte's cells leave the clock low and bit 0 on the data line (R138, R139). -/
theorem shiftByte_lines {clk cs din : LineId} (n : Nat) (v : Byte) (ls : Lines) (h1 : clk ≠ cs) (h2 : clk ≠ din)
    (h3 : cs ≠ din) :
    linesAfterAll (.software clk cs din) (shiftByte clk din n v) ls
      = ⟨⟨ls.clk.dir, .driven .low⟩, ls.cs, ⟨ls.din.dir, .driven (Level.ofBit (v.getLsbD 0))⟩⟩ := by
  simp [shiftByte, bitCell, linesAfterAll, linesAfter, lineAfter, h1, h2, Ne.symm h2, Ne.symm h3]

/-- A frame's events leave the clock low, chip-select deasserted and the data line at bit 0 of the data (R137). -/
theorem softwareFrame_lines {clk cs din : LineId} (n : Nat) (f : Frame) (ls : Lines) (h1 : clk ≠ cs) (h2 : clk ≠ din)
    (h3 : cs ≠ din) :
    linesAfterAll (.software clk cs din) (softwareFrame clk cs din n f) ls
      = ⟨⟨ls.clk.dir, .driven .low⟩, ⟨ls.cs.dir, .driven Config.csActive.other⟩,
        ⟨ls.din.dir, .driven (Level.ofBit (f.data.getLsbD 0))⟩⟩ := by
  simp [softwareFrame, linesAfterAll_cons, linesAfterAll_append, shiftByte_lines, h1, h2, h3, linesAfter, lineAfter,
    Ne.symm h1]

/-- After any number of frames the clock and the directions are as before; chip-select is deasserted after one. -/
theorem traceOf_lines {clk cs din : LineId} (delay : CommDelay) (fs : List Frame) (ls : Lines) (h1 : clk ≠ cs)
    (h2 : clk ≠ din) (h3 : cs ≠ din) (hc : ls.clk.level = .driven .low) :
    let after := linesAfterAll (.software clk cs din) (traceOf (.software clk cs din) delay fs) ls
    after.clk = ls.clk ∧ after.cs = (if fs = [] then ls.cs else ⟨ls.cs.dir, .driven Config.csActive.other⟩) ∧
      after.din.dir = ls.din.dir := by
  induction fs generalizing ls with
  | nil => simp [traceOf]
  | cons f fs ih =>
    simp only [traceOf, List.flatMap_cons, linesAfterAll_append, pathEvents, softwareFrame_lines _ _ _ h1 h2 h3] at ih ⊢
    obtain ⟨a, b, c⟩ := ih ⟨⟨ls.clk.dir, .driven .low⟩, ⟨ls.cs.dir, .driven Config.csActive.other⟩,
      ⟨ls.din.dir, .driven (Level.ofBit (f.data.getLsbD 0))⟩⟩ rfl
    simp only at a b c
    rw [a, b, c]
    obtain ⟨⟨d, l⟩, _, _⟩ := ls
    simp_all

/-- The hardware path's events carry their frames as transfers (R142). -/
theorem traceOf_transfers (kHz : Int32Word) (i : Fin 2) (delay : CommDelay) (fs : List Frame) :
    (traceOf (.hardware kHz i) delay fs).filterMap transferOf = fs := by
  induction fs with
  | nil => rfl
  | cons f fs ih =>
    simp only [traceOf, List.flatMap_cons, List.filterMap_append] at *
    rw [ih]
    rfl

/-! ### The receiver -/

/-- A receiver sees the levels that the lines have. -/
def SeesLevels (r : Receiver) (ls : Lines) : Prop :=
  r.clk = ls.clk.level ∧ r.cs = ls.cs.level ∧ r.din = ls.din.level

theorem seesLevels_next {clk cs din : LineId} (h1 : clk ≠ cs) (h2 : clk ≠ din) (h3 : cs ≠ din) (e : Event)
    (r : Receiver) (ls : Lines) (h : SeesLevels r ls) :
    SeesLevels (receiverNext clk cs din r e) (linesAfter (.software clk cs din) e ls) := by
  obtain ⟨k1, k2, k3⟩ := h
  cases e with
  | setLine id v =>
    simp only [receiverNext, linesAfter, lineAfter]
    by_cases ha : id = clk
    · subst ha
      simp [SeesLevels, h1, h2, k2, k3]
    · by_cases hc : id = din
      · subst hc
        simp [SeesLevels, ha, Ne.symm h3, k1, k2]
      · by_cases hb : id = cs
        · subst hb
          simp only [ha, hc, if_false, if_true]
          split
          · simp [SeesLevels, *]
          · split <;> simp [SeesLevels, *]
        · simp [SeesLevels, ha, hb, hc, k1, k2, k3]
  | configureOutput id =>
    simp only [receiverNext, linesAfter, lineAfter, SeesLevels]
    refine ⟨?_, ?_, ?_⟩ <;> split <;> assumption
  | _ => exact ⟨k1, k2, k3⟩

/-- Through any trace, a receiver's levels and the fold of the lines stay the same (R34). -/
theorem seesLevels_all {clk cs din : LineId} (h1 : clk ≠ cs) (h2 : clk ≠ din) (h3 : cs ≠ din) (es : List Event)
    (r : Receiver) (ls : Lines) (h : SeesLevels r ls) :
    SeesLevels (es.foldl (receiverNext clk cs din) r) (linesAfterAll (.software clk cs din) es ls) := by
  induction es generalizing r ls with
  | nil => exact h
  | cons e es ih => exact ih _ _ (seesLevels_next h1 h2 h3 e r ls h)

/-- A byte's cells bring a receiver its eight bits, most significant first. -/
theorem receiver_shiftByte {clk cs din : LineId} (n : Nat) (v : Byte) (r : Receiver) (h2 : clk ≠ din)
    (hc : r.clk = .driven .low) :
    (shiftByte clk din n v).foldl (receiverNext clk cs din) r
      = { r with
          clk := .driven .low
          din := .driven (Level.ofBit (v.getLsbD 0))
          bits := r.bits ++ [v.getLsbD 7, v.getLsbD 6, v.getLsbD 5, v.getLsbD 4, v.getLsbD 3, v.getLsbD 2,
            v.getLsbD 1, v.getLsbD 0] } := by
  have hb : ∀ b, decide (Level.ofBit b = Level.high) = b := by decide
  simp [shiftByte, bitCell, receiverNext, Ne.symm h2, hc, -BitVec.getLsbD_eq_getElem]
  simp only [hb, and_self]

/-- Eight bits, most significant first, are their byte (R63). -/
theorem byteOfBits_bits (v : Byte) :
    byteOfBits [v.getLsbD 7, v.getLsbD 6, v.getLsbD 5, v.getLsbD 4, v.getLsbD 3, v.getLsbD 2, v.getLsbD 1,
      v.getLsbD 0] = v := by
  revert v
  decide

/-- A software frame's events bring a receiver whose clock is low, and which holds no bits, exactly the frame. -/
theorem receiver_softwareFrame {clk cs din : LineId} (n : Nat) (f : Frame) (r : Receiver) (h1 : clk ≠ cs)
    (h2 : clk ≠ din) (h3 : cs ≠ din) (hc : r.clk = .driven .low) (hb : r.bits = []) :
    (softwareFrame clk cs din n f).foldl (receiverNext clk cs din) r
      = ⟨.driven .low, .driven Config.csActive.other, .driven (Level.ofBit (f.data.getLsbD 0)), [], r.got ++ [f]⟩ := by
  obtain ⟨c, k, dd, bits, got⟩ := r
  simp only at hc hb
  subst hc hb
  have assert : receiverNext clk cs din ⟨.driven .low, k, dd, [], got⟩ (.setLine cs Config.csActive)
      = ⟨.driven .low, .driven Config.csActive, dd, [], got⟩ := by
    simp [receiverNext, Ne.symm h1, h3]
  have hn : Config.csActive.other ≠ Config.csActive := by decide
  simp only [softwareFrame, List.foldl_cons, List.foldl_append, List.foldl_nil]
  rw [assert, receiver_shiftByte n f.addr _ h2 rfl, receiver_shiftByte n f.data _ h2 rfl]
  simp [receiverNext, Ne.symm h1, h3, hn, frameOfBits, -BitVec.getLsbD_eq_getElem]
  exact congrArg₂ Frame.mk (byteOfBits_bits f.addr) (byteOfBits_bits f.data)

end Sys2Proof.Machine
end

