-- ==== Sys2Proof/Laws/Text.lean ====
section
/-! SUPPORT. Where a text's items go, and number formatting. -/

namespace Sys2Proof.Machine

open Sys2Proof.Safety

theorem unalignedFrames_length (n : Nat) (items : List Item) :
    (unalignedFrames n items).length = min n items.length := by
  induction n generalizing items with
  | zero => simp [unalignedFrames]
  | succ d ih =>
    cases items with
    | nil => simp [unalignedFrames]
    | cons it rest => simp [unalignedFrames, ih]

theorem digitRegister_ofNat (d : Nat) : digitRegister (BitVec.ofNat 8 d) = BitVec.ofNat 8 (d + 1) := by
  simp [digitRegister, BitVec.ofNat_add]

/-- Item `j` of an unaligned text goes to register `n - j` (R186). -/
theorem unalignedFrames_placed (n : Nat) (items : List Item) :
    PlacedFrom n (min items.length n) items (unalignedFrames n items) := by
  refine ⟨by rw [unalignedFrames_length]; omega, ?_⟩
  induction n generalizing items with
  | zero => intro j it hj; omega
  | succ d ih =>
    intro j it hj hit
    cases items with
    | nil => simp at hit
    | cons it0 rest =>
      cases j with
      | zero =>
        simp at hit
        subst hit
        simp [unalignedFrames, digitRegister_ofNat]
      | succ j =>
        simp at hit hj
        simp [unalignedFrames, ih rest j it (by omega) hit]

/-- Left alignment, from item number `pos` on, is the unaligned placement on the digits that are left (R185, R186). -/
theorem alignedFrames_left (n pos : Nat) (items : List Item) :
    alignedFrames n n pos items = some (unalignedFrames (n - pos) items) := by
  induction items generalizing pos with
  | nil => cases n - pos <;> rfl
  | cons it rest ih =>
    simp only [alignedFrames]
    by_cases h : pos < n
    · obtain ⟨d, hd⟩ : ∃ d, n - pos = d + 1 := ⟨n - pos - 1, by omega⟩
      simp only [h, if_true, ih, hd, unalignedFrames]
      rw [show n - (pos + 1) = d by omega, show n - 1 - pos = d by omega]
    · simp [h, show n - pos = 0 by omega, unalignedFrames]

/-- Right alignment with no index below 0 is the unaligned placement from digit `start - 1` on (R185). -/
theorem alignedFrames_right (start n pos : Nat) (items : List Item) (hs : start ≤ n)
    (h : min (pos + items.length) n ≤ start) :
    alignedFrames start n pos items = some (unalignedFrames (start - pos) items) := by
  induction items generalizing pos with
  | nil => cases start - pos <;> rfl
  | cons it rest ih =>
    simp only [alignedFrames]
    by_cases hp : pos < n
    · simp only [List.length_cons] at h
      have hps : pos < start := by omega
      obtain ⟨d, hd⟩ : ∃ d, start - pos = d + 1 := ⟨start - pos - 1, by omega⟩
      rw [ih (pos + 1) (by omega)]
      simp only [hp, hps, if_true, hd, unalignedFrames]
      rw [show start - (pos + 1) = d by omega, show start - 1 - pos = d by omega]
    · simp [hp, show start - pos = 0 by omega, unalignedFrames]

/-- Right alignment has an index below 0 where more items are rendered than the effective length (R185 e). -/
theorem alignedFrames_negative (start n pos : Nat) (items : List Item) (hp : pos ≤ start)
    (h : start < min (pos + items.length) n) : alignedFrames start n pos items = none := by
  induction items generalizing pos with
  | nil => simp at h; omega
  | cons it rest ih =>
    simp only [List.length_cons] at h
    simp only [alignedFrames]
    rw [if_pos (show pos < n by omega)]
    by_cases hps : pos < start
    · rw [if_pos hps, ih (pos + 1) (by omega) (by omega)]
    · rw [if_neg hps]

/-- Frames of an unaligned text address digit registers `n` and below. -/
theorem unalignedFrames_addr (n : Nat) (h : n ≤ 8) (items : List Item) :
    ∀ f ∈ unalignedFrames n items, 1 ≤ f.addr.toNat ∧ f.addr.toNat ≤ n := by
  induction n generalizing items with
  | zero => simp [unalignedFrames]
  | succ n ih =>
    cases items with
    | nil => simp [unalignedFrames]
    | cons it rest =>
      intro f hf
      simp only [unalignedFrames, List.mem_cons] at hf
      rcases hf with rfl | hf
      · rw [digitRegister_ofNat]
        simp
        omega
      · have := ih (by omega) rest f hf
        omega

theorem digit_storable {r : Nat} (h1 : 1 ≤ r) (h2 : r ≤ 8) : r ∈ storableCodes := by
  simp [storableCodes]
  omega

theorem unalignedFrames_storable (n : Nat) (h : n ≤ 8) (items : List Item) :
    ∀ f ∈ unalignedFrames n items, f.addr.toNat ∈ storableCodes := by
  intro f hf
  obtain ⟨h1, h2⟩ := unalignedFrames_addr n h items f hf
  exact digit_storable h1 (by omega)

/-- After an unaligned text's frames register `n - j` of the chip holds item `j`'s segment byte (R38, R186). -/
theorem unalignedFrames_read (n : Nat) (h : n ≤ 8) (items : List Item) (s : State) (j : Nat) (it : Item) (hj : j < n)
    (hit : items[j]? = some it) :
    memRead (writeFrames (unalignedFrames n items) s).sink (n - j) = some (segmentByte it.char it.dp) := by
  induction n generalizing items s j with
  | zero => omega
  | succ d ih =>
    cases items with
    | nil => simp at hit
    | cons first rest =>
      have ha : (digitRegister (BitVec.ofNat 8 d)).toNat = d + 1 := by
        rw [digitRegister_ofNat]
        simp
        omega
      cases j with
      | zero =>
        simp at hit
        subst hit
        rw [unalignedFrames, writeFrames_cons, writeFrames_read_other _ _ _ (unalignedFrames_storable d (by omega) rest)
          (fun f hf => by have := (unalignedFrames_addr d (by omega) rest f hf).2; omega),
          writeFrame_read _ _ (by rw [ha]; exact digit_storable (by omega) (by omega)), ha]
        simp
      | succ j =>
        rw [unalignedFrames, writeFrames_cons, show d + 1 - (j + 1) = d - j by omega]
        exact ih (by omega) rest _ j (by omega) (by simpa using hit)

theorem alignedFrames_storable (start n pos : Nat) (items : List Item) (fs : List Frame) (hs : start ≤ 8)
    (h : alignedFrames start n pos items = some fs) : ∀ f ∈ fs, f.addr.toNat ∈ storableCodes := by
  induction items generalizing pos fs with
  | nil =>
    simp [alignedFrames] at h
    simp [h]
  | cons it rest ih =>
    simp only [alignedFrames] at h
    split at h
    · split at h
      · split at h
        · rename_i rs hr
          simp at h
          subst h
          intro f hf
          simp only [List.mem_cons] at hf
          rcases hf with rfl | hf
          · rw [digitRegister_ofNat]
            exact digit_storable (by simp; omega) (by simp; omega)
          · exact ih _ _ hr f hf
        · simp at h
      · simp at h
    · simp at h
      simp [h]

theorem clearFrames_storable (n : Nat) (h : n ≤ 8) : ∀ f ∈ clearFrames n, f.addr.toNat ∈ storableCodes := by
  intro f hf
  simp [clearFrames] at hf
  obtain ⟨r, hr, rfl⟩ := hf
  exact digit_storable (by simp; omega) (by simp; omega)

theorem digitRegister_eq (k : Byte) : digitRegister k = BitVec.ofNat 8 (k.toNat + 1) := by
  apply BitVec.eq_of_toNat_eq
  simp [digitRegister]

/-- A digit index in 0..7 addresses register `index + 1` (R95). -/
theorem digitRegister_toNat (k : Byte) (h : k.toNat ≤ 7) : (digitRegister k).toNat = k.toNat + 1 := by
  rw [digitRegister_eq]
  simp
  omega

theorem effLen_le (t : List Byte) (n : Nat) : effLen t n ≤ n := Nat.min_le_right _ _

/-! ### Numbers -/

theorem digitByte_toNat {n : Nat} (h : n < 10) : (charZero + BitVec.ofNat 8 n).toNat = 0x30 + n := by
  simp [charZero]
  omega

theorem decimalDigits_ne_nil (fuel n : Nat) : decimalDigits (fuel + 1) n ≠ [] := by
  simp only [decimalDigits]
  split <;> simp

theorem decimalDigits_digits (fuel n : Nat) : ∀ d ∈ decimalDigits fuel n, 0x30 ≤ d.toNat ∧ d.toNat ≤ 0x39 := by
  induction fuel generalizing n with
  | zero => simp [decimalDigits]
  | succ fuel ih =>
    intro d hd
    simp only [decimalDigits] at hd
    split at hd
    · rename_i hn
      simp at hd
      subst hd
      rw [digitByte_toNat hn]
      omega
    · rw [List.mem_append] at hd
      cases hd with
      | inl hd => exact ih _ d hd
      | inr hd =>
        simp at hd
        subst hd
        rw [digitByte_toNat (Nat.mod_lt _ (by omega))]
        omega

theorem spelled_append (ds : List Byte) (d : Byte) : spelled (ds ++ [d]) = 10 * spelled ds + (d.toNat - 0x30) := by
  simp [spelled]

theorem decimalDigits_spelled (fuel n : Nat) (h : n < 10 ^ fuel) : spelled (decimalDigits fuel n) = n := by
  induction fuel generalizing n with
  | zero => simp at h; subst h; rfl
  | succ fuel ih =>
    simp only [decimalDigits]
    split
    · rename_i hn
      simp only [spelled, List.foldl_cons, List.foldl_nil, digitByte_toNat hn]
      omega
    · rw [spelled_append, ih (n / 10) (by rw [Nat.pow_succ] at h; omega), digitByte_toNat (Nat.mod_lt _ (by omega))]
      omega

theorem decimalDigits_head (fuel n : Nat) (h : 0 < n) (hn : n < 10 ^ fuel) :
    (decimalDigits fuel n).head? ≠ some 0x30#8 := by
  induction fuel generalizing n with
  | zero => simp [decimalDigits]
  | succ fuel ih =>
    simp only [decimalDigits]
    split
    · rename_i h10
      intro hc
      have := congrArg (fun o => o.map BitVec.toNat) hc
      simp only [List.head?_cons, Option.map_some, digitByte_toNat h10] at this
      simp at this
      omega
    · rename_i h10
      have hne : decimalDigits fuel (n / 10) ≠ [] := by
        cases fuel with
        | zero => simp at hn; omega
        | succ k => exact decimalDigits_ne_nil k _
      rw [List.head?_append_of_ne_nil _ hne]
      exact ih (n / 10) (by omega) (by rw [Nat.pow_succ] at hn; omega)

/-- The magnitude of a 32-bit value has at most ten digits. -/
theorem natAbs_lt (v : Int32Word) : v.toInt.natAbs < 10 ^ 10 := by
  have h1 := BitVec.le_two_mul_toInt (x := v)
  have h2 := BitVec.two_mul_toInt_lt (x := v)
  omega

/-- `dec` of R187 is the shortest numeral of the magnitude. -/
theorem magnitudeDigits_numeral (v : Int32Word) : IsNumeral (magnitudeDigits v) v.toInt.natAbs := by
  refine ⟨decimalDigits_ne_nil 9 _, decimalDigits_digits 10 _, decimalDigits_spelled 10 _ (natAbs_lt v), ?_⟩
  intro hl
  by_cases h0 : 0 < v.toInt.natAbs
  · exact decimalDigits_head 10 _ h0 (natAbs_lt v)
  · rw [magnitudeDigits, show v.toInt.natAbs = 0 by omega] at hl
    exact absurd hl (by decide)

/-- Formatting pads and never shortens (R187). -/
theorem formatInt_length (v : Int32Word) (w : Nat) (al : TextAlignment) :
    (formatInt v w al).length = max w ((signChars v).length + (magnitudeDigits v).length) := by
  cases al <;> simp [formatInt] <;> omega

/-- A formatted number has no `'.'`, so each of its characters is one item. -/
theorem textItems_length_of_no_dot (t : List Byte) (h : charDot ∉ t) : (textItems t).length = t.length := by
  induction t with
  | nil => rfl
  | cons c t ih =>
    simp only [List.mem_cons, not_or] at h
    cases t with
    | nil => rfl
    | cons d t =>
      have hd : d ≠ charDot := fun he => h.2 (by simp [he])
      simp only [textItems, hd, and_false, if_false, List.length_cons]
      rw [← List.length_cons (a := d), ← ih h.2]

theorem textItems_of_no_dot (t : List Byte) (h : charDot ∉ t) : textItems t = t.map fun c => ⟨c, false⟩ := by
  induction t with
  | nil => rfl
  | cons c t ih =>
    simp only [List.mem_cons, not_or] at h
    cases t with
    | nil => rfl
    | cons d t =>
      have hd : d ≠ charDot := fun he => h.2 (by simp [he])
      simp only [textItems, hd, and_false, if_false, ih h.2, List.map_cons]

theorem segmentByte_false (c : Byte) : segmentByte c false = glyph c := by simp [segmentByte]

theorem formatInt_no_dot (v : Int32Word) (w : Nat) (al : TextAlignment) : charDot ∉ formatInt v w al := by
  have hd : charDot ∉ magnitudeDigits v := by
    intro hm
    exact absurd (decimalDigits_digits 10 _ _ hm) (by decide)
  have hs : charDot ∉ signChars v := by
    unfold signChars
    split <;> decide
  cases al <;> simp [formatInt, hd, hs, List.mem_replicate] <;> intro _ <;> decide

end Sys2Proof.Machine
end

