-- ==== Sys2Proof/Laws/Exec.lean ====
section
/-! SUPPORT. When a command is accepted, and, once for all instructions, everything `exec` can do when it answers a
next state. -/

namespace Sys2Proof.Machine

open Sys2Proof.Safety

/-! ### Acceptance -/

theorem admission_none_iff (need : Session) (s : State) : admission need s = none ↔ Ready s need := by
  unfold admission Ready
  cases s.busy <;> cases s.busReady <;> by_cases h : s.session = need <;> simp [h]

theorem microAdmission_none_iff (need : Session) (s : State) : microAdmission need s = none ↔ InCommand s need := by
  unfold microAdmission InCommand
  cases s.busy <;> cases s.busReady <;> by_cases h : s.session = need <;> simp [h]

theorem whenAdmitted_ready {need : Session} {s : State} (h : Ready s need) (body : State → Answer) :
    whenAdmitted need s body = body (setBusy true s) := by
  simp [whenAdmitted, (admission_none_iff need s).mpr h]

/-- A command that answers a next state was accepted, and its body answered it. -/
theorem whenAdmitted_next {need : Session} {s t : State} {body : State → Answer}
    (h : whenAdmitted need s body = .next t) : Ready s need ∧ body (setBusy true s) = .next t := by
  unfold whenAdmitted at h
  split at h
  · exact nomatch h
  · rename_i hn
    exact ⟨(admission_none_iff need s).mp hn, h⟩

/-- In the wrong session, with the bus ready and the block not busy, the refusal is `WrongSession` (R205, R211). -/
theorem whenAdmitted_wrongSession {need : Session} {s : State} (hb : s.busy = false) (hr : s.busReady = true)
    (hs : s.session ≠ need) (body : State → Answer) : whenAdmitted need s body = .refused .wrongSession := by
  simp [whenAdmitted, admission, hb, hr, hs]

/-- With the bus not ready the refusal is `BusNotReady`, whatever the session (R201, R205). -/
theorem whenAdmitted_busNotReady {need : Session} {s : State} (hb : s.busy = false) (hr : s.busReady = false)
    (body : State → Answer) : whenAdmitted need s body = .refused .busNotReady := by
  simp [whenAdmitted, admission, hb, hr]

/-- While busy no command is accepted (R31). -/
theorem whenAdmitted_busy {need : Session} {s : State} (hb : s.busy = true) (body : State → Answer) :
    whenAdmitted need s body = .refused .busy := by
  simp [whenAdmitted, admission, hb]

/-! ### Everything an instruction can do -/

/-- What `exec i s` did when it answered `t`. -/
inductive Effect (i : Instr) (s t : State) : Prop where
  /-- the chip received a frame the block did not send -/
  | received (a d : Byte) (hi : neededSession i = none) (hc : isConstructor i = false) (h : t = chipReceive a d s)
  /-- a new construction -/
  | constructed (p : Transport) (hc : isConstructor i = true)
      (hp : ∀ clk cs din, p = .software clk cs din → clk ≠ cs ∧ clk ≠ din ∧ cs ≠ din)
      (h : t = construct p s)
  /-- BEGIN_SESSION inside a command -/
  | began (hi : i = .beginSession) (hs : InCommand s .uninitialized) (h : t = sessionBegin s)
  /-- END_SESSION inside a command -/
  | closed (hi : i = .endSession) (hs : InCommand s .active) (h : t = sessionEnd s)
  /-- the delay register was written -/
  | delayed (us : CommDelay) (hi : i = .setCommDelay us) (hb : s.busy = false) (h : t = storeCommDelay us s)
  /-- the delay register was returned -/
  | delayRead (hi : i = .getCommDelay) (hb : s.busy = false) (h : t = returnToHost s.commDelay s)
  /-- INITIALIZE ran -/
  | initialised (n m : Byte) (hi : i = .initialise n m) (hs : Ready s .uninitialized)
      (hn : 1 ≤ n.toNat ∧ n.toNat ≤ 8) (hm : m = Config.decodeNone ∨ m = Config.decodeCodeB)
      (h : t = setBusy false (initialiseBody n m (setBusy true s)))
  /-- frames were written and no shadow -/
  | wrote (fs : List Frame) (hi : neededSession i = some .active) (hs : Ready s .active)
      (hf : (∃ a d, i = .writeFrame a d ∧ fs = [⟨a, d⟩]) ∨
        (s.digitCount.val.toNat ≤ 8 → ∀ f ∈ fs, f.addr.toNat ∈ storableCodes))
      (h : t = setBusy false (writeFrames fs (setBusy true s)))
  /-- the brightness was set -/
  | brightened (v : Byte) (hi : ∃ l, i = .setBrightness l) (hs : Ready s .active) (hv : v.toNat ≤ 0x0F)
      (h : t = setBusy false (storeIntensity v (writeFrame 0x0A#8 v (setBusy true s))))
  /-- shutdown was set -/
  | shut (on : Bool) (hi : i = .setShutdown on) (hs : Ready s .active)
      (h : t = setBusy false (storeShutdown on (writeFrame 0x0C#8 (shutdownOperand on) (setBusy true s))))
  /-- display test was set -/
  | tested (on : Bool) (hi : i = .setDisplayTest on) (hs : Ready s .active)
      (h : t = setBusy false (storeDisplayTest on (writeFrame 0x0F#8 (displayTestOperand on) (setBusy true s))))
  /-- END_OPERATIONS ran -/
  | finished (hi : i = .endOperations) (hs : Ready s .active)
      (h : t = setBusy false (setSession .ended (sessionEnd (setBusy true s))))

theorem complete_next {s t : State} (h : complete s = .next t) : t = setBusy false s := by
  unfold complete at h
  injection h with h
  exact h.symm

theorem brightnessOperand_le (l : Byte) : (brightnessOperand l).toNat ≤ 0x0F := by
  unfold brightnessOperand
  split
  · assumption
  · decide

theorem renderPlaced_next {fs : Option (List Frame)} {s t : State} (h : renderPlaced fs s = .next t) :
    ∃ l, fs = some l ∧ t = setBusy false (writeFrames l s) := by
  unfold renderPlaced at h
  split at h
  · exact ⟨_, rfl, complete_next h⟩
  · exact nomatch h

/-- Everything an instruction can do when it answers a next state. -/
theorem exec_effect {i : Instr} {s t : State} (h : exec i s = .next t) : Effect i s t := by
  have chip : ∀ a d, neededSession i = none → isConstructor i = false →
      Host.Outcome.next (φ := Fault) (ρ := Refusal) (chipReceive a d s) = .next t → Effect i s t := by
    intro a d hi hc h
    injection h with h
    exact .received a d hi hc h.symm
  have digit : ∀ k b, digitIndexLegal k = true → ∀ f ∈ [(⟨digitRegister k, b⟩ : Frame)], f.addr.toNat ∈ storableCodes := by
    intro k b hk f hf
    simp at hf
    subst hf
    simp [digitIndexLegal] at hk
    rw [digitRegister_toNat k (by omega)]
    exact digit_storable (by omega) (by omega)
  cases i with
  | noop d => exact chip _ _ rfl rfl h
  | digit0 d => exact chip _ _ rfl rfl h
  | digit1 d => exact chip _ _ rfl rfl h
  | digit2 d => exact chip _ _ rfl rfl h
  | digit3 d => exact chip _ _ rfl rfl h
  | digit4 d => exact chip _ _ rfl rfl h
  | digit5 d => exact chip _ _ rfl rfl h
  | digit6 d => exact chip _ _ rfl rfl h
  | digit7 d => exact chip _ _ rfl rfl h
  | decodeMode d => exact chip _ _ rfl rfl h
  | intensity d => exact chip _ _ rfl rfl h
  | scanLimit d => exact chip _ _ rfl rfl h
  | shutdown d => exact chip _ _ rfl rfl h
  | displayTest d => exact chip _ _ rfl rfl h
  | resetSw clk cs din =>
    simp only [exec, execResetSw] at h
    split at h
    · rename_i hl
      injection h with h
      refine .constructed _ rfl ?_ h.symm
      intro a b c he
      injection he with h1 h2 h3
      subst h1 h2 h3
      simpa [linesLegal] using hl
    · exact nomatch h
  | resetHw k c =>
    simp only [exec, execResetHw] at h
    split at h
    · injection h with h
      exact .constructed _ rfl (by intro _ _ _ he; cases he) h.symm
    · exact nomatch h
  | beginSession =>
    simp only [exec, execBeginSession] at h
    split at h
    · exact nomatch h
    · rename_i hn
      injection h with h
      exact .began rfl ((microAdmission_none_iff _ _).mp hn) h.symm
  | endSession =>
    simp only [exec, execEndSession] at h
    split at h
    · exact nomatch h
    · rename_i hn
      injection h with h
      exact .closed rfl ((microAdmission_none_iff _ _).mp hn) h.symm
  | writeFrame a d =>
    simp only [exec, execWriteFrame] at h
    obtain ⟨hr, hb⟩ := whenAdmitted_next h
    exact .wrote [⟨a, d⟩] rfl hr (.inl ⟨a, d, rfl, rfl⟩) (complete_next hb)
  | setCommDelay us =>
    simp only [exec, execSetCommDelay] at h
    split at h
    · exact nomatch h
    · rename_i hb
      injection h with h
      exact .delayed us rfl (by simpa using hb) h.symm
  | getCommDelay =>
    simp only [exec, execGetCommDelay] at h
    split at h
    · exact nomatch h
    · rename_i hb
      injection h with h
      exact .delayRead rfl (by simpa using hb) h.symm
  | initialise n m =>
    simp only [exec, execInitialise] at h
    obtain ⟨hr, hb⟩ := whenAdmitted_next h
    split at hb
    · exact nomatch hb
    · rename_i hn
      split at hb
      · exact nomatch hb
      · rename_i hm
        exact .initialised n m rfl hr (by simpa [digitCountLegal] using hn)
          (by simpa [decodeModeLegal, Decidable.or_iff_not_imp_left] using hm)
          (complete_next hb)
  | clear =>
    simp only [exec, execClear] at h
    obtain ⟨hr, hb⟩ := whenAdmitted_next h
    exact .wrote _ rfl hr (.inr (clearFrames_storable _)) (complete_next hb)
  | setSegments k b =>
    simp only [exec, execSetSegments] at h
    obtain ⟨hr, hb⟩ := whenAdmitted_next h
    split at hb
    · rename_i hk
      exact .wrote [⟨digitRegister k, b⟩] rfl hr (.inr fun _ => digit k b hk) (complete_next hb)
    · exact nomatch hb
  | setBrightness l =>
    simp only [exec, execSetBrightness] at h
    obtain ⟨hr, hb⟩ := whenAdmitted_next h
    exact .brightened _ ⟨l, rfl⟩ hr (brightnessOperand_le l) (complete_next hb)
  | setShutdown on =>
    simp only [exec, execSetShutdown] at h
    obtain ⟨hr, hb⟩ := whenAdmitted_next h
    exact .shut on rfl hr (complete_next hb)
  | setDisplayTest on =>
    simp only [exec, execSetDisplayTest] at h
    obtain ⟨hr, hb⟩ := whenAdmitted_next h
    exact .tested on rfl hr (complete_next hb)
  | endOperations =>
    simp only [exec, execEndOperations] at h
    obtain ⟨hr, hb⟩ := whenAdmitted_next h
    exact .finished rfl hr (complete_next hb)
  | displayChar k c p =>
    simp only [exec, execDisplayChar] at h
    obtain ⟨hr, hb⟩ := whenAdmitted_next h
    split at hb
    · rename_i hk
      exact .wrote [⟨digitRegister k, segmentByte c p⟩] rfl hr (.inr fun _ => digit k _ hk) (complete_next hb)
    · exact nomatch hb
  | displayTextAligned t' al =>
    simp only [exec, execDisplayTextAligned] at h
    obtain ⟨hr, hb⟩ := whenAdmitted_next h
    cases al with
    | rightZeros => exact .wrote [] rfl hr (.inr (by simp)) (complete_next hb)
    | left =>
      obtain ⟨l, hl, ht⟩ := renderPlaced_next hb
      exact .wrote l rfl hr (.inr fun hn => alignedFrames_storable _ _ _ _ _ hn hl) ht
    | right =>
      obtain ⟨l, hl, ht⟩ := renderPlaced_next hb
      exact .wrote l rfl hr
        (.inr fun hn => alignedFrames_storable _ _ _ _ _ (Nat.le_trans (effLen_le _ _) hn) hl) ht
  | displayText t' =>
    simp only [exec, execDisplayText] at h
    obtain ⟨hr, hb⟩ := whenAdmitted_next h
    exact .wrote _ rfl hr (.inr fun hn => unalignedFrames_storable _ hn _) (complete_next hb)
  | displayInteger v al =>
    simp only [exec, execDisplayInteger] at h
    obtain ⟨hr, hb⟩ := whenAdmitted_next h
    exact .wrote _ rfl hr (.inr fun hn => unalignedFrames_storable _ hn _) (complete_next hb)
  | displayTwoFields u l al =>
    simp only [exec, execDisplayTwoFields] at h
    obtain ⟨hr, hb⟩ := whenAdmitted_next h
    split at hb
    · exact nomatch hb
    · exact .wrote _ rfl hr (.inr fun hn => unalignedFrames_storable _ hn _) (complete_next hb)

/-! ### INITIALIZE -/

/-- The frames of INITIALIZE, in order (R110, R161). -/
def initialiseFrames (n m : Byte) : List Frame :=
  [⟨0x0B#8, scanLimitOperand n⟩, ⟨0x09#8, m⟩, ⟨0x0C#8, 0x01#8⟩, ⟨0x0F#8, 0x00#8⟩] ++ clearFrames n.toNat
    ++ [⟨0x0A#8, 0x08#8⟩]

theorem initialiseFrames_storable (n m : Byte) (h : n.toNat ≤ 8) :
    ∀ f ∈ initialiseFrames n m, f.addr.toNat ∈ storableCodes := by
  intro f hf
  simp only [initialiseFrames, List.mem_append, List.mem_cons, List.not_mem_nil, or_false] at hf
  rcases hf with ((rfl | rfl | rfl | rfl) | hf) | rfl
  · exact (by decide : 0x0B ∈ storableCodes)
  · exact (by decide : 0x09 ∈ storableCodes)
  · exact (by decide : 0x0C ∈ storableCodes)
  · exact (by decide : 0x0F ∈ storableCodes)
  · exact clearFrames_storable _ h f hf
  · exact (by decide : 0x0A ∈ storableCodes)

theorem initialiseBody_transport (n m : Byte) (s : State) : (initialiseBody n m s).transport = s.transport := by
  simp [initialiseBody, sessionBegin]

theorem initialiseBody_commDelay (n m : Byte) (s : State) : (initialiseBody n m s).commDelay = s.commDelay := by
  simp [initialiseBody, sessionBegin]

theorem initialiseBody_session (n m : Byte) (s : State) : (initialiseBody n m s).session = .active := by
  simp [initialiseBody]

theorem initialiseBody_shadows (n m : Byte) (s : State) :
    (initialiseBody n m s).digitCount = Reg.stored n ∧ (initialiseBody n m s).decodeMode = Reg.stored m ∧
      (initialiseBody n m s).intensity = Reg.stored 0x08#8 ∧ (initialiseBody n m s).shutdown = Reg.stored false ∧
      (initialiseBody n m s).displayTest = Reg.stored false := by
  simp [initialiseBody, sessionBegin]

theorem initialiseBody_host (n m : Byte) (s : State) :
    (initialiseBody n m s).busReady = s.busReady ∧ (initialiseBody n m s).pending = s.pending ∧
      (initialiseBody n m s).returns = s.returns := by
  simp [initialiseBody, sessionBegin]

theorem initialiseBody_frames (n m : Byte) (s : State) :
    (initialiseBody n m s).frames = s.frames ++ initialiseFrames n m := by
  simp [initialiseBody, sessionBegin, initialiseFrames, shutdownOperand, displayTestOperand]

/-- The events of INITIALIZE: session begin, the settle delay, then its frames (R161). -/
theorem initialiseBody_events (n m : Byte) (s : State) :
    (initialiseBody n m s).events
      = s.events ++ (beginEvents s.transport ++ [.delayMillis 50])
        ++ traceOf s.transport s.commDelay (initialiseFrames n m) := by
  simp [initialiseBody, sessionBegin, initialiseFrames, shutdownOperand, displayTestOperand, writeFrames_events,
    writeFrame_events, traceOf]

theorem initialiseBody_lines (n m : Byte) (s : State) :
    (initialiseBody n m s).lines
      = linesAfterAll s.transport (beginEvents s.transport ++ [.delayMillis 50]
        ++ traceOf s.transport s.commDelay (initialiseFrames n m)) s.lines := by
  simp [initialiseBody, sessionBegin, initialiseFrames, shutdownOperand, displayTestOperand, writeFrames_lines,
    writeFrame_lines, traceOf, linesAfterAll_append, linesAfterAll_cons]

theorem initialiseBody_spi (n m : Byte) (s : State) :
    (initialiseBody n m s).spi
      = spiAfterAll (beginEvents s.transport ++ [.delayMillis 50]
        ++ traceOf s.transport s.commDelay (initialiseFrames n m)) s.spi := by
  simp [initialiseBody, sessionBegin, initialiseFrames, shutdownOperand, displayTestOperand, writeFrames_spi,
    writeFrame_spi, traceOf, spiAfterAll_append, spiAfterAll_cons]

theorem initialiseBody_pos (n m : Byte) (s : State) (h : s.pos = .idle) : (initialiseBody n m s).pos = .idle := by
  simp only [initialiseBody, storeIntensity_pos]
  apply writeFrame_pos
  apply writeFrames_pos
  simp only [storeDisplayTest_pos]
  apply writeFrame_pos
  simp only [storeShutdown_pos]
  apply writeFrame_pos
  simp only [storeDecodeMode_pos]
  apply writeFrame_pos
  apply writeFrame_pos
  simpa [sessionBegin] using h

theorem memWf_initialiseBody (n m : Byte) (s : State) (h : memWf s.sink = true) :
    memWf (initialiseBody n m s).sink = true := by
  have step : ∀ a d (u : State), memWf u.sink = true → memWf (Machine.writeFrame a d u).sink = true := by
    intro a d u hu
    rw [writeFrame_sink]
    exact memWf_chipReceive _ _ _ hu
  simp only [initialiseBody, storeIntensity_sink]
  refine step _ _ _ (memWf_writeFrames _ _ ?_)
  simp only [storeDisplayTest_sink]
  refine step _ _ _ ?_
  simp only [storeShutdown_sink]
  refine step _ _ _ ?_
  simp only [storeDecodeMode_sink]
  refine step _ _ _ (step _ _ _ ?_)
  simpa [sessionBegin] using h

end Sys2Proof.Machine
end

