-- ==== Sys2Proof/Laws/PerInstr.lean ====
section
/-! SUPPORT. Per instruction: its encoded form leads with its row's code, in its row's format (R103, R104). -/

namespace Sys2Proof.Laws.Leading

open Sys2Proof.Safety

/-- The encoded form of `i` is matched by its own row of the table: a frame row on bits 15:8, a command row on the
code. -/
def Statement (i : Instr) : Prop :=
  match encode i with
  | .frame16 w => rowOf i = (.frame16, frameAddr w)
  | .cmd bytes => ∃ ops, bytes = (rowOf i).2 :: ops ∧ (rowOf i).1 = .cmd

theorem noop (d : Byte) : Statement (.noop d) := by simp [Statement, encode, rowOf]

theorem digit0 (d : Byte) : Statement (.digit0 d) := by simp [Statement, encode, rowOf]

theorem digit1 (d : Byte) : Statement (.digit1 d) := by simp [Statement, encode, rowOf]

theorem digit2 (d : Byte) : Statement (.digit2 d) := by simp [Statement, encode, rowOf]

theorem digit3 (d : Byte) : Statement (.digit3 d) := by simp [Statement, encode, rowOf]

theorem digit4 (d : Byte) : Statement (.digit4 d) := by simp [Statement, encode, rowOf]

theorem digit5 (d : Byte) : Statement (.digit5 d) := by simp [Statement, encode, rowOf]

theorem digit6 (d : Byte) : Statement (.digit6 d) := by simp [Statement, encode, rowOf]

theorem digit7 (d : Byte) : Statement (.digit7 d) := by simp [Statement, encode, rowOf]

theorem decodeMode (d : Byte) : Statement (.decodeMode d) := by simp [Statement, encode, rowOf]

theorem intensity (d : Byte) : Statement (.intensity d) := by simp [Statement, encode, rowOf]

theorem scanLimit (d : Byte) : Statement (.scanLimit d) := by simp [Statement, encode, rowOf]

theorem shutdown (d : Byte) : Statement (.shutdown d) := by simp [Statement, encode, rowOf]

theorem displayTest (d : Byte) : Statement (.displayTest d) := by simp [Statement, encode, rowOf]

theorem resetSw (clk cs din : LineId) : Statement (.resetSw clk cs din) := ⟨_, rfl, rfl⟩

theorem resetHw (k : Int32Word) (i : Byte) : Statement (.resetHw k i) := ⟨_, rfl, rfl⟩

theorem beginSession : Statement .beginSession := ⟨_, rfl, rfl⟩

theorem endSession : Statement .endSession := ⟨_, rfl, rfl⟩

theorem writeFrame (a d : Byte) : Statement (.writeFrame a d) := ⟨_, rfl, rfl⟩

theorem setCommDelay (us : CommDelay) : Statement (.setCommDelay us) := ⟨_, rfl, rfl⟩

theorem getCommDelay : Statement .getCommDelay := ⟨_, rfl, rfl⟩

theorem initialise (n m : Byte) : Statement (.initialise n m) := ⟨_, rfl, rfl⟩

theorem clear : Statement .clear := ⟨_, rfl, rfl⟩

theorem setSegments (i b : Byte) : Statement (.setSegments i b) := ⟨_, rfl, rfl⟩

theorem setBrightness (l : Byte) : Statement (.setBrightness l) := ⟨_, rfl, rfl⟩

theorem setShutdown (on : Bool) : Statement (.setShutdown on) := ⟨_, rfl, rfl⟩

theorem setDisplayTest (on : Bool) : Statement (.setDisplayTest on) := ⟨_, rfl, rfl⟩

theorem endOperations : Statement .endOperations := ⟨_, rfl, rfl⟩

theorem displayChar (i c : Byte) (p : Bool) : Statement (.displayChar i c p) := ⟨_, rfl, rfl⟩

theorem displayTextAligned (t : List Byte) (al : TextAlignment) : Statement (.displayTextAligned t al) := ⟨_, rfl, rfl⟩

theorem displayText (t : List Byte) : Statement (.displayText t) := ⟨_, rfl, rfl⟩

theorem displayInteger (v : Int32Word) (al : TextAlignment) : Statement (.displayInteger v al) := ⟨_, rfl, rfl⟩

theorem displayTwoFields (u l : Int32Word) (al : TextAlignment) : Statement (.displayTwoFields u l al) := ⟨_, rfl, rfl⟩

end Sys2Proof.Laws.Leading
end

