-- ==== Sys2Proof/Laws/Step.lean ====
section
/-! SUPPORT. Everything a step can do when it answers a next state. -/

namespace Sys2Proof.Machine

/-- A step waits, takes a bus-init result, or executes the instruction that the oldest presentation decodes to. -/
theorem step_cases {s t : State} (h : step s = .next t) :
    (s.pending = [] ∧ t = s) ∨
    (∃ ready rest, s.pending = .busInit ready :: rest ∧ t = { s with pending := rest, busReady := ready }) ∨
    (∃ e i rest, s.pending = .present e :: rest ∧ decode e = .ok i ∧ exec i { s with pending := rest } = .next t) := by
  unfold step at h
  split at h
  · rename_i hp
    injection h with h
    exact .inl ⟨hp, h.symm⟩
  · rename_i ready rest hp
    injection h with h
    exact .inr (.inl ⟨ready, rest, hp, h.symm⟩)
  · rename_i e rest hp
    split at h
    · rename_i i hd
      exact .inr (.inr ⟨e, i, rest, hp, hd, h⟩)
    · exact nomatch h

end Sys2Proof.Machine
end

