-- ==== Sys2Proof/Tests/Slice0.lean ====
section
/-! SUPPORT. The model's own tests: the smoke test of WellFormed, a word written out from the spec for every
constructor, single steps on small states with results from 95_test_vectors.md, and for every obligation with
hypotheses a state and operands that meet them. -/

namespace Sys2Proof.Tests

open Sys2Proof.Machine Sys2Proof.Safety

/-! ### Small states -/

/-- An Active software-path block on the lines 11, 8 and 10, as INITIALIZE leaves its lines (V19), `n` digits. -/
def activeSw (n : Byte) : State :=
  { State.reset with
    session := .active
    digitCount := Reg.stored n
    decodeMode := Reg.stored 0x00#8
    intensity := Reg.stored 0x08#8
    shutdown := Reg.stored false
    displayTest := Reg.stored false
    lines := ⟨⟨.output, .driven .low⟩, ⟨.output, .driven .high⟩, ⟨.output, .driven .low⟩⟩ }

/-- An Active hardware-path block on chip-select line 1, `n` digits. -/
def activeHw (n : Byte) : State :=
  { activeSw n with
    transport := .hardware 8000#32 1
    lines := Lines.untouched
    spi := ⟨true, Reg.stored 0, Reg.stored .msbFirst, Reg.stored 0, Reg.stored 1, Reg.stored .low⟩ }

/-- A fresh hardware-path block. -/
def freshHw (kHz : Int32Word) : State := { State.reset with transport := .hardware kHz 1 }

/-- What `f` reads from a next state. -/
def onNext {α : Type} (f : State → α) : Answer → Option α
  | .next t => some (f t)
  | _ => none

/-- The refusal an answer gives. -/
def refusalOf : Answer → Option Refusal
  | .refused r => some r
  | _ => none

/-! ### WellFormed -/

theorem test_wellFormed_text : (Instr.displayText [0x41#8]).wellFormed = true := by decide

/-- A text with 0x00 in it is no text (92_eei_decisions.md D29). -/
theorem test_illFormed_text : (Instr.displayText [0x41#8, 0x00#8]).wellFormed = false := by decide

theorem test_illFormed_alignedText : (Instr.displayTextAligned [0x00#8] .left).wellFormed = false := by decide

theorem test_range_lines : (Instr.resetSw 11#8 8#8 10#8).operandsInRange = true ∧
    (Instr.resetSw 5#8 5#8 6#8).operandsInRange = false ∧ (Instr.resetSw 5#8 6#8 5#8).operandsInRange = false ∧
    (Instr.resetSw 6#8 5#8 5#8).operandsInRange = false := by decide

theorem test_range_csIndex : (Instr.resetHw 0#32 1#8).operandsInRange = true ∧
    (Instr.resetHw 1000#32 2#8).operandsInRange = false := by decide

theorem test_range_digitCount : (Instr.initialise 8#8 0x00#8).operandsInRange = true ∧
    (Instr.initialise 0#8 0x00#8).operandsInRange = false ∧
    (Instr.initialise 9#8 0x00#8).operandsInRange = false := by decide

theorem test_range_decodeMode : (Instr.initialise 1#8 0xFF#8).operandsInRange = true ∧
    (Instr.initialise 8#8 0x01#8).operandsInRange = false := by decide

theorem test_range_digitIndex : (Instr.setSegments 7#8 0xFF#8).operandsInRange = true ∧
    (Instr.setSegments 8#8 0x01#8).operandsInRange = false ∧
    (Instr.displayChar 8#8 0x30#8 false).operandsInRange = false := by decide

/-! ### Decoding: one written-out word for each constructor (R90, R94, R103, R104; operand layout of log 2) -/

theorem test_decode_noop : decode (.frame16 0x0000#16) = .ok (.noop 0x00#8) := by decide

theorem test_decode_digit0 : decode (.frame16 0x0100#16) = .ok (.digit0 0x00#8) := by decide

theorem test_decode_digit1 : decode (.frame16 0x02AA#16) = .ok (.digit1 0xAA#8) := by decide

theorem test_decode_digit2 : decode (.frame16 0x0301#16) = .ok (.digit2 0x01#8) := by decide

theorem test_decode_digit3 : decode (.frame16 0x04B0#16) = .ok (.digit3 0xB0#8) := by decide

theorem test_decode_digit4 : decode (.frame16 0x0580#16) = .ok (.digit4 0x80#8) := by decide

theorem test_decode_digit5 : decode (.frame16 0x0640#16) = .ok (.digit5 0x40#8) := by decide

theorem test_decode_digit6 : decode (.frame16 0x077F#16) = .ok (.digit6 0x7F#8) := by decide

theorem test_decode_digit7 : decode (.frame16 0x08FF#16) = .ok (.digit7 0xFF#8) := by decide

theorem test_decode_decodeMode : decode (.frame16 0x09FF#16) = .ok (.decodeMode 0xFF#8) := by decide

theorem test_decode_intensity : decode (.frame16 0x0A08#16) = .ok (.intensity 0x08#8) := by decide

theorem test_decode_scanLimit : decode (.frame16 0x0B07#16) = .ok (.scanLimit 0x07#8) := by decide

theorem test_decode_shutdown : decode (.frame16 0x0C01#16) = .ok (.shutdown 0x01#8) := by decide

theorem test_decode_displayTest : decode (.frame16 0x0F00#16) = .ok (.displayTest 0x00#8) := by decide

/-- SHUTDOWN bit by bit, bit 15 first (V2). -/
theorem test_decode_bits : decode (.frame16 0b0000110000000001#16) = .ok (.shutdown 0x01#8) := by decide

theorem test_decode_undefinedFrame : decode (.frame16 0x0D5A#16) = .error (.undefinedFrame 0x0D#8) ∧
    decode (.frame16 0x0E00#16) = .error (.undefinedFrame 0x0E#8) ∧
    decode (.frame16 0x1000#16) = .error (.undefinedFrame 0x10#8) ∧
    decode (.frame16 0xFFFF#16) = .error (.undefinedFrame 0xFF#8) := by decide

theorem test_decode_resetSw : decode (.cmd [0x01#8, 0x0B#8, 0x08#8, 0x0A#8]) = .ok (.resetSw 11#8 8#8 10#8) :=
    by decide

theorem test_decode_resetHw : decode (.cmd [0x02#8, 0x00#8, 0x00#8, 0x1F#8, 0x40#8,
    0x01#8]) = .ok (.resetHw 8000#32 1#8) := by decide

theorem test_decode_beginSession : decode (.cmd [0x10#8]) = .ok (.beginSession) := by decide

theorem test_decode_endSession : decode (.cmd [0x11#8]) = .ok (.endSession) := by decide

theorem test_decode_writeFrame : decode (.cmd [0x12#8, 0x0A#8, 0x08#8]) = .ok (.writeFrame 0x0A#8 0x08#8) := by decide

theorem test_decode_setCommDelay : decode (.cmd [0x13#8, 0x01#8, 0x02#8]) = .ok (.setCommDelay 258#16) := by decide

theorem test_decode_getCommDelay : decode (.cmd [0x14#8]) = .ok (.getCommDelay) := by decide

theorem test_decode_initialise : decode (.cmd [0x20#8, 0x08#8, 0xFF#8]) = .ok (.initialise 8#8 0xFF#8) := by decide

theorem test_decode_clear : decode (.cmd [0x21#8]) = .ok (.clear) := by decide

theorem test_decode_setSegments : decode (.cmd [0x22#8, 0x03#8, 0xB0#8]) = .ok (.setSegments 3#8 0xB0#8) := by decide

theorem test_decode_setBrightness : decode (.cmd [0x23#8, 0x1F#8]) = .ok (.setBrightness 0x1F#8) := by decide

theorem test_decode_setShutdown : decode (.cmd [0x24#8, 0x00#8]) = .ok (.setShutdown false) := by decide

theorem test_decode_setDisplayTest : decode (.cmd [0x25#8, 0x01#8]) = .ok (.setDisplayTest true) := by decide

theorem test_decode_endOperations : decode (.cmd [0x26#8]) = .ok (.endOperations) := by decide

theorem test_decode_displayChar : decode (.cmd [0x30#8, 0x02#8, 0x7B#8,
    0x01#8]) = .ok (.displayChar 2#8 0x7B#8 true) := by decide

theorem test_decode_displayTextAligned : decode (.cmd [0x31#8, 0x33#8, 0x2E#8, 0x31#8, 0x00#8,
    0x01#8]) = .ok (.displayTextAligned [0x33#8, 0x2E#8, 0x31#8] .right) := by decide

theorem test_decode_displayText : decode (.cmd [0x32#8, 0x41#8, 0x42#8, 0x00#8]) = .ok (.displayText [0x41#8,
    0x42#8]) := by decide

theorem test_decode_displayInteger : decode (.cmd [0x33#8, 0xFF#8, 0xFF#8, 0xFF#8, 0xD6#8,
    0x02#8]) = .ok (.displayInteger (-42#32) .rightZeros) := by decide

theorem test_decode_displayTwoFields : decode (.cmd [0x34#8, 0x00#8, 0x00#8, 0x30#8, 0x39#8, 0x00#8, 0x00#8,
    0x00#8, 0x06#8, 0x00#8]) = .ok (.displayTwoFields 12345#32 6#32 .left) := by decide

/-- Unknown code and alignment (V18), and what log 27 adds. -/
theorem test_decode_rejects : decode (.cmd [0x40#8]) = .error (.unknownCommand 0x40#8) ∧
    decode (.cmd [0x31#8, 0x41#8, 0x00#8, 0x03#8]) = .error (.badAlignment 0x03#8) ∧
    decode (.cmd [0x24#8, 0x02#8]) = .error (.badBoolean 0x02#8) ∧
    decode (.cmd [0x21#8, 0x00#8]) = .error (.badOperands 0x21#8) ∧ decode (.cmd []) = .error .noCode := by decide

theorem test_tableWord : decodeTableWord 16 0x0A08 = some (.intensity 0x08#8) ∧
    decodeTableWord 8 0x23 = some (.setBrightness 0x00#8) ∧
    decodeTableWord 8 0x34 = some (.displayTwoFields 0#32 0#32 .left) := by decide

theorem test_fetchWord : onNext id (step (State.reset.withFetchWord 8 0x13)) = some State.reset ∧
    onNext id (step (State.reset.withFetchWord 16 0x0807)) = some { State.reset with sink := [(8, 0x07#8)] } :=
    by decide

/-! ### Frames at the chip (V21) -/

theorem test_noop_changesNothing : onNext id (exec (.noop 0x77#8) State.reset) = some State.reset := by decide

theorem test_digit0_stores : onNext id (exec (.digit0 0x5A#8) State.reset) = some { State.reset with sink :=
    [(1, 0x5A#8)] } := by decide

theorem test_digit1_stores : onNext id (exec (.digit1 0x5A#8) State.reset) = some { State.reset with sink :=
    [(2, 0x5A#8)] } := by decide

theorem test_digit2_stores : onNext id (exec (.digit2 0x5A#8) State.reset) = some { State.reset with sink :=
    [(3, 0x5A#8)] } := by decide

theorem test_digit3_stores : onNext id (exec (.digit3 0x5A#8) State.reset) = some { State.reset with sink :=
    [(4, 0x5A#8)] } := by decide

theorem test_digit4_stores : onNext id (exec (.digit4 0x5A#8) State.reset) = some { State.reset with sink :=
    [(5, 0x5A#8)] } := by decide

theorem test_digit5_stores : onNext id (exec (.digit5 0x5A#8) State.reset) = some { State.reset with sink :=
    [(6, 0x5A#8)] } := by decide

theorem test_digit6_stores : onNext id (exec (.digit6 0x5A#8) State.reset) = some { State.reset with sink :=
    [(7, 0x5A#8)] } := by decide

theorem test_digit7_stores : onNext id (exec (.digit7 0x5A#8) State.reset) = some { State.reset with sink :=
    [(8, 0x5A#8)] } := by decide

theorem test_decodeMode_stores : onNext id (exec
    (.decodeMode 0x01#8) State.reset) = some { State.reset with sink := [(9, 0x01#8)] } := by decide

theorem test_intensity_stores : onNext id (exec
    (.intensity 0x01#8) State.reset) = some { State.reset with sink := [(10, 0x01#8)] } := by decide

theorem test_scanLimit_stores : onNext id (exec
    (.scanLimit 0x01#8) State.reset) = some { State.reset with sink := [(11, 0x01#8)] } := by decide

theorem test_shutdown_stores : onNext id (exec (.shutdown 0x01#8) State.reset) = some { State.reset with sink :=
    [(12, 0x01#8)] } := by decide

theorem test_displayTest_stores : onNext id (exec
    (.displayTest 0x01#8) State.reset) = some { State.reset with sink := [(15, 0x01#8)] } := by decide

/-- A write keeps the codes rising and replaces an entry (log 7). -/
theorem test_sink_order : memWrite (memWrite (memWrite [] 15 0x00#8) 1 0x30#8) 1 0x31#8 = [(1, 0x31#8), (15,
    0x00#8)] := by decide

/-! ### Construction and the session -/

theorem test_resetSw : onNext id (exec (.resetSw 1#8 2#8 3#8)
    (activeSw 8#8)) = some { State.reset with transport := .software 1#8 2#8 3#8 } := by decide

/-- V18. -/
theorem test_resetSw_refused : refusalOf (exec (.resetSw 5#8 5#8 6#8) State.reset) = some .badConstruct := by decide

theorem test_resetHw : onNext id (exec (.resetHw 8000#32 1#8) (activeSw 8#8)) = some (freshHw 8000#32) := by decide

/-- V4. -/
theorem test_resetHw_refused : refusalOf (exec (.resetHw 1000#32 2#8) State.reset) = some .badConstruct := by decide

/-- V3. -/
theorem test_beginSession : onNext (·.events) (exec .beginSession { State.reset with busy :=
    true }) = some [.configureOutput 11#8, .configureOutput 8#8, .configureOutput 10#8, .setLine 11#8 .low,
    .setLine 8#8 .low, .setLine 10#8 .low] := by decide

/-- V18. -/
theorem test_beginSession_host : refusalOf (exec .beginSession (activeSw 8#8)) = some .internalOnly := by decide

/-- V5. -/
theorem test_endSession : onNext (fun t => (t.events, t.lines)) (exec .endSession { activeSw 8#8 with busy :=
    true }) = some ([.setLine 11#8 .low, .setLine 8#8 .low, .setLine 10#8 .low], ⟨⟨.output, .driven .low⟩,
    ⟨.output, .driven .low⟩, ⟨.output, .driven .low⟩⟩) := by decide

/-- V5. -/
theorem test_endSession_hardware : onNext (fun t => (t.events,
    t.spi.isOpen)) (exec .endSession { activeHw 8#8 with busy := true }) = some ([.spiClose], false) := by decide

theorem test_endOperations : onNext (fun t => (t.session, t.frames,
    t.events.length)) (exec .endOperations (activeSw 8#8)) = some (.ended, [], 3) := by decide

/-! ### The frame write and the timing knob -/

/-- V1: events 21 to 27, the count and the last one. -/
theorem test_writeFrame_events : onNext (fun t => (t.events.length, (t.events.drop 20).take 7,
    t.events.getLast?)) (exec (.writeFrame 0x0A#8 0x08#8) (activeSw 8#8))
      = some (82, [.delayMicros 0, .setLine 10#8 .high, .setLine 11#8 .high, .delayMicros 0, .setLine 11#8 .low,
        .delayMicros 0, .setLine 10#8 .low], some (.setLine 8#8 .high)) := by decide

theorem test_writeFrame_hardware : onNext (fun t => (t.events,
    t.frames)) (exec (.writeFrame 0x0A#8 0x08#8) (activeHw 8#8)) = some ([.spiTransfer 0x0A#8 0x08#8], [⟨0x0A#8,
    0x08#8⟩]) := by decide

/-- V11. -/
theorem test_setCommDelay : onNext id (exec
    (.setCommDelay 65535#16) State.reset) = some { State.reset with commDelay := 65535#16 } := by decide

/-- V11. -/
theorem test_getCommDelay : onNext (·.returns) (exec .getCommDelay { State.reset with commDelay :=
    5#16 }) = some [5#16] := by decide

/-! ### Register-writing commands -/

/-- The frames and the chip of V21, on the hardware path: 6 + 1 + 7 events (V6). -/
theorem test_initialise : onNext (fun t => (t.frames, t.events.length,
    t.sink)) (exec (.initialise 2#8 0x00#8) (freshHw 0#32))
      = some ([⟨0x0B#8, 0x01#8⟩, ⟨0x09#8, 0x00#8⟩, ⟨0x0C#8, 0x01#8⟩, ⟨0x0F#8, 0x00#8⟩, ⟨0x01#8, 0x00#8⟩, ⟨0x02#8,
    0x00#8⟩,
        ⟨0x0A#8, 0x08#8⟩], 14, [(1, 0x00#8), (2, 0x00#8), (9, 0x00#8), (10, 0x08#8), (11, 0x01#8), (12, 0x01#8),
        (15, 0x00#8)]) := by decide

/-- V6. -/
theorem test_initialise_refused : refusalOf (exec (.initialise 9#8 0x00#8) State.reset) = some .badDigitCount ∧
    refusalOf (exec (.initialise 8#8 0x01#8) State.reset) = some .badDecodeMode := by decide

/-- V7. -/
theorem test_clear : onNext (·.frames) (exec .clear (activeSw 3#8)) = some [⟨0x01#8, 0x00#8⟩, ⟨0x02#8, 0x00#8⟩,
    ⟨0x03#8, 0x00#8⟩] := by decide

/-- V8. -/
theorem test_setSegments : onNext (·.frames) (exec (.setSegments 7#8 0xFF#8) (activeSw 4#8)) = some [⟨0x08#8,
    0xFF#8⟩] := by decide

/-- V8. -/
theorem test_setSegments_refused : refusalOf (exec (.setSegments 8#8 0x01#8)
    (activeSw 8#8)) = some .digitIndexTooLarge := by decide

/-- V9: a clamp, not a mask. -/
theorem test_setBrightness : onNext (fun t => (t.frames,
    t.intensity.val)) (exec (.setBrightness 0x10#8) (activeSw 8#8)) = some ([⟨0x0A#8, 0x0F#8⟩], 0x0F#8) := by decide

/-- V10. -/
theorem test_setShutdown : onNext (fun t => (t.frames,
    t.shutdown.val)) (exec (.setShutdown true) (activeSw 8#8)) = some ([⟨0x0C#8, 0x00#8⟩], true) := by decide

/-- V10. -/
theorem test_setDisplayTest : onNext (fun t => (t.frames,
    t.displayTest.val)) (exec (.setDisplayTest true) (activeSw 8#8)) = some ([⟨0x0F#8, 0x01#8⟩], true) := by decide

/-! ### Content commands -/

/-- V12: a code outside the font, with a decimal point. -/
theorem test_displayChar_blank : onNext (·.frames) (exec (.displayChar 2#8 0x7B#8 true)
    (activeSw 8#8)) = some [⟨0x03#8, 0x80#8⟩] := by decide

/-- V12. -/
theorem test_displayChar_font : onNext (·.frames) (exec (.displayChar 7#8 0x7A#8 false)
    (activeSw 8#8)) = some [⟨0x08#8, (Config.font 0x7A#8).zeroExtend 8 ||| 0x00#8⟩] := rfl

/-- V13: "1..2". -/
theorem test_items : (textItems [0x31#8, 0x2E#8, 0x2E#8, 0x32#8], effLen [0x31#8, 0x2E#8, 0x2E#8,
    0x32#8] 8) = ([⟨0x31#8, true⟩, ⟨0x2E#8, false⟩, ⟨0x32#8, false⟩], 2) := by decide

/-- V14: "3.14", Right. -/
theorem test_displayTextAligned_right : onNext (·.frames) (exec (.displayTextAligned [0x33#8, 0x2E#8, 0x31#8,
    0x34#8] .right) (activeSw 8#8)) = some [⟨0x03#8, segmentByte 0x33#8 true⟩, ⟨0x02#8, segmentByte 0x31#8 false⟩,
    ⟨0x01#8, segmentByte 0x34#8 false⟩] := rfl

/-- V14: ".5", Right. -/
theorem test_displayTextAligned_refused : refusalOf (exec (.displayTextAligned [0x2E#8,
    0x35#8] .right) (activeSw 8#8)) = some .negativeDigit := by decide

/-- V15: "AB". -/
theorem test_displayText : onNext (·.frames) (exec (.displayText [0x41#8, 0x42#8]) (activeSw 4#8)) = some [⟨0x04#8,
    segmentByte 0x41#8 false⟩, ⟨0x03#8, segmentByte 0x42#8 false⟩] := rfl

/-- V16. -/
theorem test_formatInt_negative : formatInt (-42#32) 8 .rightZeros = [0x2D#8, 0x30#8, 0x30#8, 0x30#8, 0x30#8,
    0x30#8, 0x34#8, 0x32#8] := by decide

/-- V16: the most negative value. -/
theorem test_formatInt_lowest : formatInt 0x80000000#32 8 .rightZeros = [0x2D#8, 0x32#8, 0x31#8, 0x34#8, 0x37#8,
    0x34#8, 0x38#8, 0x33#8, 0x36#8, 0x34#8, 0x38#8] := by decide

/-- V17: the last character is dropped. -/
theorem test_displayInteger : onNext (·.frames) (exec (.displayInteger 12#32 .right)
    (activeSw 1#8)) = some [⟨0x01#8, segmentByte 0x31#8 false⟩] := rfl

/-- V17: an odd digit count. -/
theorem test_displayTwoFields : onNext (·.frames) (exec (.displayTwoFields 1#32 2#32 .right)
    (activeSw 3#8)) = some [⟨0x03#8, segmentByte 0x31#8 false⟩, ⟨0x02#8, segmentByte 0x32#8 false⟩] := rfl

/-- V17. -/
theorem test_displayTwoFields_refused : refusalOf (exec (.displayTwoFields 1#32 2#32 .right)
    (activeSw 1#8)) = some .zeroFieldWidth := by decide

/-- V18. -/
theorem test_sessions : refusalOf (exec .clear State.reset) = some .wrongSession ∧
    refusalOf (exec (.initialise 8#8 0x00#8) (activeSw 8#8)) = some .wrongSession ∧
    refusalOf (exec (.initialise 8#8 0x00#8) { State.reset with busReady := false }) = some .busNotReady := by decide

/-! ### Witnesses: for each obligation with hypotheses, what meets them -/

theorem witness_DecodeOfEncode : (Instr.displayText [0x41#8]).wellFormed = true := by decide

theorem witness_EncodeOfDecode : decode (.frame16 0x0FFF#16) = .ok (.displayTest 0xFF#8) ∧
    decode (.cmd [0x32#8, 0x00#8]) = .ok (.displayText []) := by decide

theorem witness_FramesMatchOnTheAddressByte : (frameAddr 0x0F00#16).toNat ∈ frameCodes ∧
    (frameAddr 0x0D00#16).toNat ∉ frameCodes := by decide

theorem witness_UnknownCommandsRefused : ∃ s1 s2 s3 s4 : State,
    (s1.pending = [.present (.cmd [0x35#8])] ∧ (0x35#8 : Byte).toNat ∉ commandCodes) ∧
    (s2.pending = [.present (.cmd (0x31#8 :: ([0x41#8] ++ [0x00#8, 0x03#8])))] ∧ textOk [0x41#8] = true ∧
    2 < (0x03#8 : Byte).toNat) ∧
    s3.pending = [.present (.cmd (0x33#8 :: (encodeInt32 7#32 ++ [0x03#8])))] ∧
    s4.pending = [.present (.cmd (0x34#8 :: (encodeInt32 1#32 ++ encodeInt32 2#32 ++ [0xFF#8])))] :=
    ⟨{ State.reset with pending := _ }, { State.reset with pending := _ }, { State.reset with pending := _ },
    { State.reset with pending := _ }, ⟨rfl, by decide⟩, ⟨rfl, by decide, by decide⟩, rfl, rfl⟩

theorem witness_StepRunsDecodedInstruction : ∃ s : State, s.pending = [.present (.cmd [0x21#8])] ∧
    decode (.cmd [0x21#8]) = .ok .clear := ⟨{ State.reset with pending := _ }, rfl, rfl⟩

theorem witness_StepWaitsOrTakesTheBusResult : State.reset.pending = [] ∧
    ∃ s : State, s.pending = .busInit true :: .present (encode (.initialise 0x08#8 0xFF#8)) :: [] ∧
    s.busy = false ∧ s.session = .uninitialized ∧ s.busReady = false ∧ digitCountOk 0x08#8 = true ∧
    decodeModeOk 0xFF#8 = true := ⟨rfl, { State.reset with pending := _, busReady :=
    false }, rfl, rfl, rfl, rfl, rfl, rfl⟩

theorem witness_ConstructionFollowsTheResetTable : ((11#8 : LineId) ≠ 8#8 ∧ (11#8 : LineId) ≠ 10#8 ∧
    (8#8 : LineId) ≠ 10#8) ∧ (0#8 : Byte).toNat = (0 : Fin 2).val ∧ (1#8 : Byte).toNat = (1 : Fin 2).val := by decide

theorem witness_BadConstructionsRefused : ((5#8 : LineId) = 5#8 ∨ (5#8 : LineId) = 6#8 ∨ (5#8 : LineId) = 6#8) ∧
    1 < (2#8 : Byte).toNat := by decide

theorem witness_BeginSessionOnTheSoftwarePath : InCommand { State.reset with busy :=
    true } .uninitialized ∧ State.reset.transport = .software 11#8 8#8 10#8 := ⟨⟨rfl, rfl, rfl⟩, rfl⟩

theorem witness_BeginSessionOnTheHardwarePath : InCommand { freshHw 1#32 with busy :=
    true } .uninitialized ∧ (freshHw 1#32).transport = .hardware 1#32 1 ∧ 0 < (1#32).toInt ∧
    InCommand { freshHw 0#32 with busy := true } .uninitialized ∧ (0#32).toInt ≤ 0 ∧ (0x80000000#32).toInt ≤ 0 :=
    ⟨⟨rfl, rfl, rfl⟩, rfl, by decide, ⟨rfl, rfl, rfl⟩, by decide, by decide⟩

theorem witness_EndSessionOnBothPaths : (InCommand { activeSw 8#8 with busy :=
    true } .active ∧ (activeSw 8#8).transport = .software 11#8 8#8 10#8) ∧ InCommand { activeHw 8#8 with busy :=
    true } .active ∧ (activeHw 8#8).transport = .hardware 8000#32 1 := ⟨⟨⟨rfl, rfl, rfl⟩, rfl⟩, ⟨rfl, rfl, rfl⟩, rfl⟩

theorem witness_HostMicroOperationsRefused : State.reset.busy = false ∧ (activeSw 8#8).busy = false := by decide

/-- The premise of every accepted command, on both paths,
    at the smallest and the largest digit count; it is all that RightZerosTextDoesNothing asks. -/
theorem witness_Ready : Ready State.reset .uninitialized ∧ Ready (freshHw 0#32) .uninitialized ∧
    Ready (activeSw 1#8) .active ∧ Ready (activeSw 8#8) .active ∧ Ready (activeHw 8#8) .active :=
    ⟨⟨rfl, rfl, rfl⟩, ⟨rfl, rfl, rfl⟩, ⟨rfl, rfl, rfl⟩, ⟨rfl, rfl, rfl⟩, ⟨rfl, rfl, rfl⟩⟩

theorem witness_WriteFrameDeliversItsFrame : Ready (activeSw 8#8) .active ∧ IsRegister 0x01#8 ∧
    IsRegister 0x0C#8 ∧ IsRegister 0x0F#8 :=
    ⟨⟨rfl, rfl, rfl⟩, by unfold IsRegister; decide, by unfold IsRegister; decide, by unfold IsRegister; decide⟩

/-- For SoftwareFrameIsItsWaveform, LinesAfterASoftwareFrame and SoftwareFrameDuration. -/
theorem witness_SoftwareFrames : Ready (activeSw 8#8) .active ∧
    (activeSw 8#8).transport = .software 11#8 8#8 10#8 ∧ (11#8 : LineId) ≠ 8#8 ∧ (11#8 : LineId) ≠ 10#8 ∧
    (8#8 : LineId) ≠ 10#8 := ⟨⟨rfl, rfl, rfl⟩, rfl, by decide⟩

theorem witness_ReceiverGetsTheFrameSent : ∃ r r2 : Receiver, Ready (activeSw 8#8) .active ∧
    (activeSw 8#8).transport = .software 11#8 8#8 10#8 ∧ (r.clk = .driven .low ∧ r.bits = [] ∧
    r.cs = .driven .low) ∧ (r2.clk = .driven .low ∧ r2.bits = [] ∧ r2.cs = .driven .high) :=
    ⟨⟨.driven .low, .driven .low, .unknown, [], []⟩, ⟨.driven .low, .driven .high, .unknown, [], []⟩, ⟨rfl, rfl,
    rfl⟩, rfl, by decide, by decide⟩

theorem witness_HardwarePathIgnoresTheDelay : hardwareActive (activeHw 8#8) = true ∧
    (∃ t, exec (.writeFrame 0x0A#8 0x08#8) (activeHw 8#8) = .next t) ∧ (activeHw 8#8).digitCount.val.toNat ≤ 8 ∧
    ∀ a d, Instr.writeFrame 0x0A#8 0x08#8 = .writeFrame a d → a.toNat ∈ frameCodes :=
    ⟨rfl, ⟨_, rfl⟩, by decide, fun a d h => by injection h with h; subst h; decide⟩

theorem witness_SetCommDelayWritesTheDelay : (activeSw 8#8).busy = false ∧
    (activeSw 8#8).transport = .software 11#8 8#8 10#8 ∧
    ∃ u, exec (.writeFrame 0x0A#8 0x08#8) { activeSw 8#8 with commDelay := 5#16 } = .next u := ⟨rfl, rfl, _, rfl⟩

theorem witness_GetCommDelayReturnsTheDelay : State.reset.busy = false ∧
    (∃ t, exec (.setBrightness 1#8) (activeSw 8#8) = .next t) ∧ isConstructor (.setBrightness 1#8) = false :=
    ⟨rfl, ⟨_, rfl⟩, rfl⟩

theorem witness_InitializeRunsTheSequence : Ready State.reset .uninitialized ∧ (1 ≤ (1#8 : Byte).toNat ∧
    (1#8 : Byte).toNat ≤ 8) ∧ (1 ≤ (8#8 : Byte).toNat ∧ (8#8 : Byte).toNat ≤ 8) ∧
    (0xFF#8 = Config.decodeNone ∨ 0xFF#8 = Config.decodeCodeB) := ⟨⟨rfl, rfl, rfl⟩, by decide, by decide, by decide⟩

theorem witness_InitializeSetsTheChip : ∃ t, exec (.initialise 1#8 0x00#8) State.reset = .next t := ⟨_, rfl⟩

theorem witness_BadInitializeOperandsRefused : Ready State.reset .uninitialized ∧ (0#8 : Byte).toNat = 0 ∧
    8 < (9#8 : Byte).toNat ∧ 0x01#8 ≠ Config.decodeNone ∧ 0x01#8 ≠ Config.decodeCodeB := ⟨⟨rfl, rfl, rfl⟩, by decide⟩

theorem witness_ClearWritesEveryDigit : Ready (activeSw 8#8) .active ∧ (activeSw 8#8).digitCount.val.toNat ≤ 8 :=
    ⟨⟨rfl, rfl, rfl⟩, by decide⟩

theorem witness_SetSegmentsWritesTheRawByte : Ready (activeSw 4#8) .active ∧ (0#8 : Byte).toNat ≤ 7 ∧
    (7#8 : Byte).toNat ≤ 7 := ⟨⟨rfl, rfl, rfl⟩, by decide⟩

theorem witness_DigitIndexAboveSevenRefused : Ready (activeSw 8#8) .active ∧ 8 ≤ (8#8 : Byte).toNat :=
    ⟨⟨rfl, rfl, rfl⟩, by decide⟩

theorem witness_SetBrightnessClamps : Ready (activeSw 8#8) .active ∧
    0x0F#8 = BitVec.ofNat 8 (min (0x10#8).toNat 0x0F) ∧ 0x0F#8 = BitVec.ofNat 8 (min (0x0F#8).toNat 0x0F) :=
    ⟨⟨rfl, rfl, rfl⟩, by decide⟩

theorem witness_SetShutdownIsInverted : Ready (activeSw 8#8) .active ∧ (true = true → 0x00#8 = 0x00#8) ∧
    (true = false → 0x00#8 = 0x01#8) ∧ (false = true → 0x01#8 = 0x00#8) ∧ (false = false → 0x01#8 = 0x01#8) :=
    ⟨⟨rfl, rfl, rfl⟩, by decide⟩

theorem witness_SetDisplayTestIsNotInverted : Ready (activeSw 8#8) .active ∧ (true = true → 0x01#8 = 0x01#8) ∧
    (true = false → 0x01#8 = 0x00#8) ∧ (false = true → 0x00#8 = 0x01#8) ∧ (false = false → 0x00#8 = 0x00#8) :=
    ⟨⟨rfl, rfl, rfl⟩, by decide⟩

theorem witness_EndOperationsEndsTheSession : (Ready (activeSw 8#8) .active ∧
    (activeSw 8#8).transport = .software 11#8 8#8 10#8) ∧ Ready (activeHw 8#8) .active ∧
    (activeHw 8#8).transport = .hardware 8000#32 1 := ⟨⟨⟨rfl, rfl, rfl⟩, rfl⟩, ⟨rfl, rfl, rfl⟩, rfl⟩

/-- DISPLAY_CHAR's hypotheses at the edge of the font, with and without its entry. -/
theorem witness_DisplayCharWritesTheGlyph : Ready (activeSw 8#8) .active ∧ (7#8 : Byte).toNat ≤ 7 ∧
    (∀ j, j < 7 → (0x80#8 : Byte).getLsbD j = (decide (0x20 ≤ (0x7B#8).toNat ∧
    (0x7B#8).toNat ≤ 0x7A) && (Config.font 0x7B#8).getLsbD j)) ∧
    (0x80#8 : Byte).getLsbD 7 = true ∧
    (∀ j, j < 7 → ((Config.font 0x7A#8).zeroExtend 8).getLsbD j = (decide (0x20 ≤ (0x7A#8).toNat ∧
    (0x7A#8).toNat ≤ 0x7A) && (Config.font 0x7A#8).getLsbD j)) ∧
    ((Config.font 0x7A#8).zeroExtend 8).getLsbD 7 = false := by
  refine ⟨⟨rfl, rfl, rfl⟩, by decide, ?_, by decide, ?_, ?_⟩
  · intro j hj
    rw [show decide (0x20 ≤ (0x7B#8).toNat ∧ (0x7B#8).toNat ≤ 0x7A) = false from by decide]
    revert j
    decide
  · intro j hj
    simp [BitVec.getLsbD_setWidth]
    omega
  · simp

theorem witness_DisplayTextFillsFromTheLeft : Ready (activeSw 8#8) .active ∧
    8 = (activeSw 8#8).digitCount.val.toNat ∧
    (textItems [0x31#8, 0x32#8, 0x33#8, 0x34#8, 0x35#8, 0x36#8, 0x37#8, 0x38#8])[7]? = some ⟨0x38#8, false⟩ :=
    ⟨⟨rfl, rfl, rfl⟩, rfl, by decide⟩

theorem witness_RightAlignedTextIsRightJustified : Ready (activeSw 8#8) .active ∧
    8 = (activeSw 8#8).digitCount.val.toNat ∧
    min (textItems [0x33#8, 0x2E#8, 0x31#8]).length 8 ≤ min ([0x33#8, 0x2E#8, 0x31#8].countP (· != 0x2E#8)) 8 ∧
    (textItems [0x33#8, 0x2E#8, 0x31#8])[1]? = some ⟨0x31#8, false⟩ := ⟨⟨rfl, rfl, rfl⟩, rfl, by decide, by decide⟩

theorem witness_NegativeDigitRefused : Ready (activeSw 8#8) .active ∧ 8 = (activeSw 8#8).digitCount.val.toNat ∧
    min ([0x2E#8].countP (· != 0x2E#8)) 8 < min (textItems [0x2E#8]).length 8 := ⟨⟨rfl, rfl, rfl⟩, rfl, by decide⟩

theorem witness_ItemsSpellTheText : ⟨0x33#8, true⟩ ∈ textItems [0x33#8, 0x2E#8] ∧
    (textItems [0x33#8, 0x31#8])[0]? = some ⟨0x33#8, false⟩ ∧
    (textItems [0x33#8, 0x31#8])[1]? = some ⟨0x31#8, false⟩ := by decide

theorem witness_FormatIntPadsTheNumeral : ((-42#32).toInt < 0 → [0x2D#8] = [0x2D#8]) ∧ (-42#32).toInt < 0 ∧
    0 ≤ (42#32).toInt := by decide

theorem witness_DisplayIntegerRewritesEveryDigit : Ready (activeSw 1#8) .active ∧
    1 = (activeSw 1#8).digitCount.val.toNat ∧ (formatInt 12#32 1 .right)[0]? = some 0x31#8 :=
    ⟨⟨rfl, rfl, rfl⟩, rfl, by decide⟩

theorem witness_DisplayTwoFieldsSplitsTheDigits : Ready (activeSw 2#8) .active ∧
    2 = (activeSw 2#8).digitCount.val.toNat ∧
    (formatInt 1#32 (2 / 2) .right ++ formatInt 2#32 (2 / 2) .right)[1]? = some 0x32#8 :=
    ⟨⟨rfl, rfl, rfl⟩, rfl, by decide⟩

theorem witness_ZeroFieldWidthRefused : Ready (activeSw 1#8) .active ∧ (activeSw 1#8).digitCount.val.toNat = 1 :=
    ⟨⟨rfl, rfl, rfl⟩, rfl⟩

theorem witness_NoopFramesChangeNothing : ShadowsLegal (activeSw 8#8) ∧
    ∃ t, exec (.writeFrame 0x00#8 0x77#8) (activeSw 8#8) = .next t ∧
    t.frames = (activeSw 8#8).frames ++ [⟨0x00#8, 0x77#8⟩] := ⟨fun _ => by decide, _, rfl, rfl⟩

theorem witness_ControlFramesStoreTheirByte : (Instr.shutdown 0x00#8, 0x0C) ∈ [(Instr.decodeMode 0x00#8, 0x09),
    (.intensity 0x00#8, 0x0A), (.scanLimit 0x00#8, 0x0B), (.shutdown 0x00#8, 0x0C), (.displayTest 0x00#8,
    0x0F)] := by decide

theorem witness_DigitFramesStoreTheSegments : (Instr.digit7 0x01#8, 8) ∈ [(Instr.digit0 0x01#8, 1),
    (.digit1 0x01#8, 2), (.digit2 0x01#8, 3), (.digit3 0x01#8, 4), (.digit4 0x01#8, 5), (.digit5 0x01#8, 6),
    (.digit6 0x01#8, 7), (.digit7 0x01#8, 8)] := by decide

theorem witness_WrongSessionRefused : neededSession .clear = some .active ∧ State.reset.busy = false ∧
    State.reset.busReady = true ∧ State.reset.session ≠ .active := by decide

theorem witness_BusNotReadyRefused : neededSession (.initialise 8#8 0x00#8) = some .uninitialized ∧
    ({ State.reset with busReady := false } : State).busReady = false := by decide

theorem witness_BusyBlocksCommands : ({ activeSw 8#8 with busy :=
    true } : State).busy = true ∧ neededSession .clear = some .active ∧
    ∃ t, exec .clear (activeSw 8#8) = .next t := ⟨rfl, rfl, _, rfl⟩

theorem witness_SessionTransitionsAreTheTwo : isConstructor (.resetHw 0#32 0#8) = true ∧
    isConstructor .endOperations = false ∧ isConstructor (.initialise 8#8 0x00#8) = false ∧
    (∃ t, exec (.initialise 8#8 0x00#8) State.reset = .next t) ∧
    (∃ t, exec .endOperations (activeSw 8#8) = .next t) ∧
    ∃ t, exec (.resetHw 0#32 0#8) (activeSw 8#8) = .next t := ⟨rfl, rfl, rfl, ⟨_, rfl⟩, ⟨_, rfl⟩, _, rfl⟩

/-- For TracesOnlyGrow and TransportIsFixed. -/
theorem witness_TracesOnlyGrow : (∃ t, exec .clear (activeSw 8#8) = .next t) ∧ isConstructor .clear = false ∧
    isConstructor (.resetSw 11#8 8#8 10#8) = true := ⟨⟨_, rfl⟩, rfl, rfl⟩

theorem witness_CommandFramesUseDefinedCodes : (activeSw 8#8).digitCount.val.toNat ≤ 8 ∧
    ∃ t, exec (.setSegments 7#8 0xFF#8) (activeSw 8#8) = .next t ∧
    t.frames = (activeSw 8#8).frames ++ [⟨0x08#8, 0xFF#8⟩] := ⟨by decide, _, rfl, rfl⟩

theorem witness_ShadowsAreWrittenByTheirCommands : (∃ t,
    exec (.writeFrame 0x0B#8 0x07#8) (activeSw 2#8) = .next t) ∧
    isConstructor (.writeFrame 0x0B#8 0x07#8) = false := ⟨⟨_, rfl⟩, rfl⟩

theorem witness_ShadowsAndChipSteerNothing : ∃ t, exec (.displayText [0x41#8]) (activeHw 8#8) = .next t := ⟨_, rfl⟩

/-- For StepKeepsTheBlockInvariant and StepKeepsFramesCarried: reset with INITIALIZE presented. -/
theorem witness_StepKeepsTheBlockInvariant :
    ∃ s t : State, Inv s ∧ FramesCarried s ∧ step s = .next t ∧ t.session = .active := by
  refine ⟨{ State.reset with pending := [.present (.cmd [0x20#8, 0x02#8, 0x00#8])] }, _, ?_, ⟨rfl, rfl⟩, rfl, rfl⟩
  refine ⟨⟨rfl, rfl⟩, rfl, ?_, ?_, ?_, ?_, ?_, ⟨rfl, rfl⟩⟩
  · intro a b c h
    injection h with h1 h2 h3
    subst h1 h2 h3
    decide
  · intro _
    decide
  · intro h
    exact absurd rfl h
  · intro _ _ _ _ h
    exact nomatch h
  · intro _ _ _ h
    exact nomatch h

theorem witness_EveryInstructionKeepsTheChipCanonical : memWf [(1, 0x30#8), (15, 0x00#8)] = true ∧
    ∃ t, exec (.writeFrame 0x0D#8 0x01#8) { activeSw 8#8 with sink := [(1, 0x30#8), (15, 0x00#8)] } = .next t :=
    ⟨rfl, _, rfl⟩

end Sys2Proof.Tests
end

section
/-! What one instruction does to the two traces, and what a receiver makes of it: TracesOnlyGrow (O52) and
StepKeepsFramesCarried (O59). -/

namespace Sys2Proof.Machine

open Sys2Proof.Safety

/-! ### What an instruction appends to the traces -/

/-- What an instruction other than a construction can emit in `s`: some events that carry no frame, then frames. -/
inductive Emits (s : State) : List Event → List Frame → Prop where
  /-- nothing -/
  | silent : Emits s [] []
  /-- the frames of a command in Active -/
  | frames (fs : List Frame) (hs : s.session = .active) : Emits s [] fs
  /-- BEGIN_SESSION inside a command -/
  | sessionBegin (hb : s.busy = true) : Emits s (beginEvents s.transport) []
  /-- INITIALIZE: session begin, the settle delay, then its frames (R161) -/
  | initialise (fs : List Frame) : Emits s (beginEvents s.transport ++ [.delayMillis 50]) fs
  /-- END_SESSION and END_OPERATIONS -/
  | sessionEnd : Emits s (endEvents s.transport) []

/-- From `s` to `t` the event trace gained `es` and then the events of the frames `fs`, the frame trace gained `fs`, and
the path is the same. -/
structure Appended (s t : State) (es : List Event) (fs : List Frame) : Prop where
  transport : t.transport = s.transport
  events : t.events = s.events ++ es ++ traceOf s.transport s.commDelay fs
  frames : t.frames = s.frames ++ fs

/-- A state with the traces and the path of `s` gained nothing. -/
theorem Appended.same {s t : State} (ht : t.transport = s.transport) (he : t.events = s.events)
    (hf : t.frames = s.frames) : Appended s t [] [] := ⟨ht, by simp [he, traceOf], by simp [hf]⟩

/-- A command's body runs busy, and what follows its last event writes neither trace (R31). -/
theorem Appended.ofCommand {s t u : State} {es : List Event} {fs : List Frame} (h : Appended (setBusy true s) u es fs)
    (ht : t.transport = u.transport) (he : t.events = u.events) (hf : t.frames = u.frames) : Appended s t es fs :=
  ⟨ht.trans h.transport, he.trans h.events, hf.trans h.frames⟩

theorem appended_emitAll (es : List Event) (s : State) : Appended s (emitAll es s) es [] :=
  ⟨rfl, by simp [traceOf], by simp⟩

theorem appended_writeFrame (a d : Byte) (s : State) : Appended s (writeFrame a d s) [] [⟨a, d⟩] :=
  ⟨by simp, by simp [writeFrame_events, traceOf], by simp⟩

theorem appended_writeFrames (fs : List Frame) (s : State) : Appended s (writeFrames fs s) [] fs :=
  ⟨by simp, by simp [writeFrames_events], by simp⟩

theorem appended_initialiseBody (n m : Byte) (s : State) :
    Appended s (initialiseBody n m s) (beginEvents s.transport ++ [.delayMillis 50]) (initialiseFrames n m) :=
  ⟨initialiseBody_transport n m s, initialiseBody_events n m s, initialiseBody_frames n m s⟩

theorem not_isConstructor_of_neededSession {i : Instr} {v : Session} (h : neededSession i = some v) :
    isConstructor i = false := by
  cases i with
  | resetSw => exact nomatch h
  | resetHw => exact nomatch h
  | _ => rfl

/-- Everything an instruction can do to the traces: a construction makes a new block, anything else appends. -/
theorem exec_traces {i : Instr} {s t : State} (hx : exec i s = .next t) :
    (isConstructor i = true ∧ ∃ p, t = construct p s) ∨
    (isConstructor i = false ∧ ∃ es fs, Emits s es fs ∧ Appended s t es fs) := by
  cases exec_effect hx with
  | received a d _ hc h =>
    subst h
    exact .inr ⟨hc, _, _, .silent, .same (by simp) (by simp) (by simp)⟩
  | constructed p hc _ h => exact .inl ⟨hc, p, h⟩
  | began hi hs h =>
    subst hi h
    exact .inr ⟨rfl, _, _, .sessionBegin hs.1, appended_emitAll _ s⟩
  | closed hi _ h =>
    subst hi h
    exact .inr ⟨rfl, _, _, .sessionEnd, appended_emitAll _ s⟩
  | delayed us hi _ h =>
    subst hi h
    exact .inr ⟨rfl, _, _, .silent, .same rfl rfl rfl⟩
  | delayRead hi _ h =>
    subst hi h
    exact .inr ⟨rfl, _, _, .silent, .same rfl rfl rfl⟩
  | initialised n m hi _ _ _ h =>
    subst hi h
    exact .inr ⟨rfl, _, _, .initialise _, (appended_initialiseBody n m _).ofCommand rfl rfl rfl⟩
  | wrote fs hi hs _ h =>
    subst h
    exact .inr ⟨not_isConstructor_of_neededSession hi, _, _, .frames fs hs.2.2,
      (appended_writeFrames fs _).ofCommand rfl rfl rfl⟩
  | brightened v hi hs _ h =>
    obtain ⟨l, rfl⟩ := hi
    subst h
    exact .inr ⟨rfl, _, _, .frames _ hs.2.2, (appended_writeFrame _ _ _).ofCommand rfl rfl rfl⟩
  | shut on hi hs h =>
    subst hi h
    exact .inr ⟨rfl, _, _, .frames _ hs.2.2, (appended_writeFrame _ _ _).ofCommand rfl rfl rfl⟩
  | tested on hi hs h =>
    subst hi h
    exact .inr ⟨rfl, _, _, .frames _ hs.2.2, (appended_writeFrame _ _ _).ofCommand rfl rfl rfl⟩
  | finished hi _ h =>
    subst hi h
    exact .inr ⟨rfl, _, _, .sessionEnd, (appended_emitAll _ _).ofCommand rfl rfl rfl⟩

/-- Settles O52: an instruction appends to both traces, or it is a construction, which empties them. -/
theorem tracesOnlyGrow : Obligations.TracesOnlyGrow := by
  unfold Obligations.TracesOnlyGrow
  intro s t i h
  obtain ⟨hc, p, rfl⟩ | ⟨hc, es, fs, -, ha⟩ := exec_traces h
  · simp [hc]
  · have he : t.events = s.events ++ (es ++ traceOf s.transport s.commDelay fs) := by
      rw [ha.events, List.append_assoc]
    simpa [hc] using And.intro ⟨_, he⟩ ⟨_, ha.frames⟩

/-! ### What the receiver makes of it -/

/-- The receiver of the software path after a trace. -/
def heard (clk cs din : LineId) (es : List Event) : Receiver := es.foldl (receiverNext clk cs din) Receiver.start

theorem heard_append (clk cs din : LineId) (es fs : List Event) :
    heard clk cs din (es ++ fs) = fs.foldl (receiverNext clk cs din) (heard clk cs din es) := List.foldl_append

theorem framesCarried_software_iff {s : State} {clk cs din : LineId} (ht : s.transport = .software clk cs din) :
    FramesCarried s ↔ s.frames = (heard clk cs din s.events).got ∧ (heard clk cs din s.events).bits = [] := by
  simp [FramesCarried, carriedFrames, leftoverBits, heard, ht]

theorem framesCarried_hardware_iff {s : State} {kHz : Int32Word} {j : Fin 2} (ht : s.transport = .hardware kHz j) :
    FramesCarried s ↔ s.frames = s.events.filterMap transferOf := by
  simp [FramesCarried, carriedFrames, leftoverBits, ht]

/-- Between frames: the clock is low and no bit is held, so the next frame is read from its first bit. -/
def BetweenFrames (r : Receiver) : Prop := r.clk = .driven .low ∧ r.bits = []

/-- A receiver between frames takes exactly the frames sent, and is between frames again. -/
theorem receiver_traceOf {clk cs din : LineId} (h1 : clk ≠ cs) (h2 : clk ≠ din) (h3 : cs ≠ din) (delay : CommDelay)
    (fs : List Frame) (r : Receiver) (hr : BetweenFrames r) :
    let r' := (traceOf (.software clk cs din) delay fs).foldl (receiverNext clk cs din) r
    BetweenFrames r' ∧ r'.got = r.got ++ fs := by
  induction fs generalizing r with
  | nil => simpa [traceOf] using hr
  | cons f fs ih =>
    have hf := receiver_softwareFrame delay.toNat f r h1 h2 h3 hr.1 hr.2
    have hrest := ih _ (show BetweenFrames ((softwareFrame clk cs din delay.toNat f).foldl
      (receiverNext clk cs din) r) by rw [hf]; exact ⟨rfl, rfl⟩)
    simpa [traceOf, pathEvents, hf] using hrest

/-- Setting the three lines low takes no frame from a receiver that holds no bit: chip-select low is its asserted
level. -/
theorem receiver_endEvents {clk cs din : LineId} (h1 : clk ≠ cs) (h2 : clk ≠ din) (h3 : cs ≠ din) (r : Receiver)
    (hb : r.bits = []) :
    let r' := (endEvents (.software clk cs din)).foldl (receiverNext clk cs din) r
    BetweenFrames r' ∧ r'.got = r.got := by
  have asserts : endEvents (.software clk cs din)
      = [.setLine clk .low, .setLine cs Config.csActive, .setLine din .low] := rfl
  simp [asserts, receiverNext, BetweenFrames, hb, Ne.symm h1, Ne.symm h2, h3]

/-- Session begin is the same to a receiver: it does not see a line's direction. -/
theorem receiver_beginEvents (clk cs din : LineId) (r : Receiver) :
    (beginEvents (.software clk cs din)).foldl (receiverNext clk cs din) r
      = (endEvents (.software clk cs din)).foldl (receiverNext clk cs din) r := rfl

/-- In Active the receiver's clock is low: its levels are those of the lines, which are at rest (R34, R49 d). -/
theorem heard_clk_of_active {s : State} {clk cs din : LineId} (hi : Inv s) (ht : s.transport = .software clk cs din)
    (hs : s.session = .active) : (heard clk cs din s.events).clk = .driven .low := by
  obtain ⟨h1, h2, h3⟩ := hi.linesDistinct _ _ _ ht
  have sees : SeesLevels (heard clk cs din s.events) s.lines := by
    rw [hi.folds.1, ht]
    exact seesLevels_all h1 h2 h3 s.events Receiver.start Lines.untouched ⟨rfl, rfl, rfl⟩
  exact sees.1.trans (hi.linesAtRest _ _ _ ht hs).1

/-- What precedes the frames takes no frame and leaves no bit; where frames follow, the receiver is between frames. -/
theorem receiver_emits {s : State} {clk cs din : LineId} {es : List Event} {fs : List Frame} (hi : Inv s)
    (ht : s.transport = .software clk cs din) (hb : (heard clk cs din s.events).bits = []) (he : Emits s es fs) :
    let r := heard clk cs din (s.events ++ es)
    (fs = [] ∨ BetweenFrames r) ∧ r.bits = [] ∧ r.got = (heard clk cs din s.events).got := by
  obtain ⟨h1, h2, h3⟩ := hi.linesDistinct _ _ _ ht
  obtain ⟨rest, got⟩ := receiver_endEvents h1 h2 h3 _ hb
  cases he with
  | silent => simpa using hb
  | frames fs hs => simpa [BetweenFrames, hb] using .inr (heard_clk_of_active hi ht hs)
  | sessionBegin hbusy => exact absurd (hi.quiet.1.symm.trans hbusy) (by decide)
  | initialise fs =>
    rw [ht, ← List.append_assoc, heard_append, heard_append, receiver_beginEvents]
    exact ⟨.inr rest, rest.2, got⟩
  | sessionEnd =>
    rw [ht, heard_append]
    exact ⟨.inl rfl, rest.2, got⟩

/-- On the hardware path nothing but the frames is a transfer (R133, R135). -/
theorem emits_no_transfer {s : State} {kHz : Int32Word} {j : Fin 2} {es : List Event} {fs : List Frame}
    (ht : s.transport = .hardware kHz j) (he : Emits s es fs) : es.filterMap transferOf = [] := by
  cases he with
  | silent => rfl
  | frames => rfl
  | sessionBegin => rw [ht]; rfl
  | initialise => rw [ht]; rfl
  | sessionEnd => rw [ht]; rfl

/-- What an instruction appends to the two traces agrees. -/
theorem appended_keeps_framesCarried {s t : State} {es : List Event} {fs : List Frame} (hi : Inv s)
    (hc : FramesCarried s) (he : Emits s es fs) (ha : Appended s t es fs) : FramesCarried t := by
  cases ht : s.transport with
  | software clk cs din =>
    obtain ⟨h1, h2, h3⟩ := hi.linesDistinct _ _ _ ht
    obtain ⟨hf, hb⟩ := (framesCarried_software_iff ht).mp hc
    obtain ⟨hr, bits, got⟩ := receiver_emits hi ht hb he
    rw [framesCarried_software_iff (ha.transport.trans ht), ha.events, ha.frames, heard_append, ht, hf, ← got]
    obtain rfl | between := hr
    · simpa [traceOf] using bits
    · obtain ⟨rest, took⟩ := receiver_traceOf h1 h2 h3 s.commDelay fs _ between
      exact ⟨took.symm, rest.2⟩
  | hardware kHz j =>
    have hf := (framesCarried_hardware_iff ht).mp hc
    rw [framesCarried_hardware_iff (ha.transport.trans ht), ha.events, ha.frames, List.filterMap_append,
      List.filterMap_append, emits_no_transfer ht he, ht, traceOf_transfers, List.append_nil, ← hf]

/-- A new block has empty traces, which agree. -/
theorem framesCarried_construct (p : Transport) (s : State) : FramesCarried (construct p s) := by
  cases p with
  | software => exact ⟨rfl, rfl⟩
  | hardware => exact ⟨rfl, rfl⟩

theorem exec_keeps_framesCarried {i : Instr} {s t : State} (hi : Inv s) (hc : FramesCarried s)
    (h : exec i s = .next t) : FramesCarried t := by
  obtain ⟨-, p, rfl⟩ | ⟨-, es, fs, he, ha⟩ := exec_traces h
  · exact framesCarried_construct p s
  · exact appended_keeps_framesCarried hi hc he ha

/-- The invariant does not speak of what is presented. -/
theorem inv_withPending {s : State} (h : Inv s) (rest : List Input) : Inv { s with pending := rest } :=
  ⟨h.quiet, h.sinkCanonical, h.linesDistinct, h.fresh, h.shadows, h.linesAtRest, h.bus, h.folds⟩

/-- Settles O59: whatever an instruction appends to the event trace carries what it appends to the frame trace; on the
software path because the receiver is between frames whenever a frame begins. -/
theorem stepKeepsFramesCarried : Obligations.StepKeepsFramesCarried := by
  unfold Obligations.StepKeepsFramesCarried
  intro s t hi hc h
  obtain ⟨-, rfl⟩ | ⟨ready, rest, -, rfl⟩ | ⟨e, i, rest, -, -, hx⟩ := step_cases h
  · exact hc
  · exact hc
  · exact exec_keeps_framesCarried (inv_withPending hi rest) hc hx

end Sys2Proof.Machine
end

section
/-! What every step keeps: the chip's canonical form (O60) and the invariant of the block between commands (O57), which
the state after reset meets (O58). -/

namespace Sys2Proof.Machine

open Sys2Proof.Safety

/-! ### The chip's canonical form -/

theorem memWf_writeFrame (a d : Byte) (s : State) (h : memWf s.sink = true) :
    memWf (writeFrame a d s).sink = true := memWf_writeFrames [⟨a, d⟩] s h

/-- Settles O60: an instruction writes the chip's registers by frames alone, and each frame keeps the form. -/
theorem everyInstructionKeepsTheChipCanonical : Obligations.EveryInstructionKeepsTheChipCanonical := by
  unfold Obligations.EveryInstructionKeepsTheChipCanonical
  intro s t i hs hx
  cases exec_effect hx with
  | received a d _ _ h => exact h ▸ memWf_chipReceive a d s hs
  | constructed p _ _ h => exact h ▸ hs
  | began _ _ h => exact h ▸ hs
  | closed _ _ h => exact h ▸ hs
  | delayed us _ _ h => exact h ▸ hs
  | delayRead _ _ h => exact h ▸ hs
  | initialised n m _ _ _ _ h => exact h ▸ memWf_initialiseBody n m _ hs
  | wrote fs _ _ _ h => exact h ▸ memWf_writeFrames fs _ hs
  | brightened v _ _ _ h => exact h ▸ memWf_writeFrame _ _ _ hs
  | shut on _ _ h => exact h ▸ memWf_writeFrame _ _ _ hs
  | tested on _ _ h => exact h ▸ memWf_writeFrame _ _ _ hs
  | finished _ _ h => exact h ▸ hs

/-! ### The lines and the bus as the fold of the trace -/

/-- From `s` to `t` the block emitted `es`: the trace gained them, and the lines and the bus took their effect (R34,
R35). -/
structure Emitted (s t : State) (es : List Event) : Prop where
  transport : t.transport = s.transport
  events : t.events = s.events ++ es
  lines : t.lines = linesAfterAll s.transport es s.lines
  spi : t.spi = spiAfterAll es s.spi

theorem emitted_emitAll (es : List Event) (s : State) : Emitted s (emitAll es s) es := ⟨rfl, rfl, rfl, rfl⟩

theorem emitted_initialiseBody (n m : Byte) (s : State) :
    Emitted s (initialiseBody n m s)
      (beginEvents s.transport ++ [.delayMillis 50] ++ traceOf s.transport s.commDelay (initialiseFrames n m)) :=
  ⟨initialiseBody_transport n m s, by simp [initialiseBody_events], initialiseBody_lines n m s,
    initialiseBody_spi n m s⟩

/-- Delivered frames are emitted as their events; no event of a frame writes the bus settings (R142). -/
theorem emitted_of_delivered {s t : State} {fs : List Frame} (h : Delivered s fs t) :
    Emitted s t (traceOf s.transport s.commDelay fs) :=
  ⟨h.setting.1, h.events, h.lines, by rw [h.spi, traceOf_spi]⟩

theorem emitted_keeps_folds {s t : State} {es : List Event} (hs : TraceFolds s) (h : Emitted s t es) :
    TraceFolds t := by
  obtain ⟨hl, hp⟩ := hs
  constructor
  · rw [h.lines, h.transport, h.events, linesAfterAll_append, ← hl]
  · rw [h.spi, h.events, spiAfterAll_append, ← hp]

/-! ### What INITIALIZE leaves on the lines and the bus -/

/-- Session begin makes the three lines outputs at level 0 (R132). -/
theorem beginEvents_lines {clk cs din : LineId} (h1 : clk ≠ cs) (h2 : clk ≠ din) (h3 : cs ≠ din) (ls : Lines) :
    linesAfterAll (.software clk cs din) (beginEvents (.software clk cs din)) ls
      = ⟨⟨.output, .driven .low⟩, ⟨.output, .driven .low⟩, ⟨.output, .driven .low⟩⟩ := by
  simp [beginEvents, linesAfterAll, linesAfter, lineAfter, h1, h2, h3, h1.symm, h2.symm, h3.symm]

/-- Session begin opens the bus and stores its settings (R35, R133). -/
theorem beginEvents_spi (kHz : Int32Word) (i : Fin 2) (p : Spi) :
    spiAfterAll (beginEvents (.hardware kHz i)) p
      = ⟨true, .stored (dividerFor kHz), .stored .msbFirst, .stored 0, .stored i, .stored .low⟩ := rfl

/-- INITIALIZE sends frames after session begin, so chip-select ends deasserted (R161, R234). -/
theorem initialiseBody_lines_software {s : State} {clk cs din : LineId} (n m : Byte)
    (ht : s.transport = .software clk cs din) (h1 : clk ≠ cs) (h2 : clk ≠ din) (h3 : cs ≠ din) :
    (initialiseBody n m s).lines.clk = ⟨.output, .driven .low⟩ ∧
      (initialiseBody n m s).lines.cs = ⟨.output, .driven Config.csActive.other⟩ ∧
      (initialiseBody n m s).lines.din.dir = .output := by
  have hne : initialiseFrames n m ≠ [] := by simp [initialiseFrames]
  have settle (ls : Lines) : linesAfterAll (.software clk cs din) [.delayMillis 50] ls = ls := rfl
  rw [initialiseBody_lines, ht, linesAfterAll_append, linesAfterAll_append, beginEvents_lines h1 h2 h3, settle]
  simpa [hne] using traceOf_lines s.commDelay (initialiseFrames n m)
    ⟨⟨.output, .driven .low⟩, ⟨.output, .driven .low⟩, ⟨.output, .driven .low⟩⟩ h1 h2 h3 rfl

/-- On the hardware path the bus ends as session begin sets it (R234). -/
theorem initialiseBody_spi_hardware {s : State} {kHz : Int32Word} {i : Fin 2} (n m : Byte)
    (ht : s.transport = .hardware kHz i) :
    (initialiseBody n m s).spi
      = ⟨true, .stored (dividerFor kHz), .stored .msbFirst, .stored 0, .stored i, .stored .low⟩ := by
  rw [initialiseBody_spi, ht, spiAfterAll_append, spiAfterAll_append, beginEvents_spi, traceOf_spi]
  rfl

/-! ### The invariant, one lemma for each thing an instruction can do -/

/-- The invariant speaks of the chip's registers through their canonical form alone. -/
theorem inv_chipReceive {s : State} (hi : Inv s) (a d : Byte) : Inv (chipReceive a d s) := by
  have hk := memWf_chipReceive a d s hi.sinkCanonical
  obtain ⟨chip, n, h⟩ := chipReceive_onlyChip a d s
  rw [h] at hk ⊢
  exact ⟨hi.quiet, hk, hi.linesDistinct, hi.fresh, hi.shadows, hi.linesAtRest, hi.bus, hi.folds⟩

theorem inv_storeCommDelay {s : State} (hi : Inv s) (us : CommDelay) : Inv (storeCommDelay us s) :=
  ⟨hi.quiet, hi.sinkCanonical, hi.linesDistinct, hi.fresh, hi.shadows, hi.linesAtRest, hi.bus, hi.folds⟩

theorem inv_returnToHost {s : State} (hi : Inv s) (v : CommDelay) : Inv (returnToHost v s) :=
  ⟨hi.quiet, hi.sinkCanonical, hi.linesDistinct, hi.fresh, hi.shadows, hi.linesAtRest, hi.bus, hi.folds⟩

/-- A construction on distinct lines starts from the invariant (R52). -/
theorem inv_construct {p : Transport} {s : State} (hk : memWf s.sink = true)
    (hp : ∀ clk cs din, p = .software clk cs din → clk ≠ cs ∧ clk ≠ din ∧ cs ≠ din) : Inv (construct p s) where
  quiet := ⟨rfl, rfl⟩
  sinkCanonical := hk
  linesDistinct := hp
  fresh := fun _ => ⟨rfl, rfl, rfl, rfl, rfl, rfl, rfl, rfl, rfl⟩
  shadows := fun h => absurd rfl h
  linesAtRest := fun _ _ _ _ h => nomatch h
  bus := fun _ _ _ h => nomatch h
  folds := ⟨rfl, rfl⟩

/-- Frames delivered in Active keep the invariant, where the shadows stay legal: the clock stays low, and chip-select
is deasserted after the first frame (R49 d). -/
theorem inv_of_delivered {s t : State} {fs : List Frame} (hi : Inv s) (hs : s.session = .active)
    (hd : Delivered s fs t) (hk : SinkCanonical t) (hl : ShadowsLegal t) : Inv t := by
  have ht : t.transport = s.transport := hd.setting.1
  refine ⟨⟨hd.busy, hd.engine hi.quiet.2⟩, hk, ?_, ?_, hl, ?_, ?_,
    emitted_keeps_folds hi.folds (emitted_of_delivered hd)⟩
  · exact fun clk cs din hp => hi.linesDistinct clk cs din (ht ▸ hp)
  · intro h
    exact absurd (hs.symm.trans (hd.session.symm.trans h)) (by decide)
  · intro clk cs din hp _
    rw [ht] at hp
    obtain ⟨h1, h2, h3⟩ := hi.linesDistinct clk cs din hp
    obtain ⟨hclk, hcs, dclk, dcs, ddin⟩ := hi.linesAtRest clk cs din hp hs
    obtain ⟨ck, sel, dd⟩ := traceOf_lines s.commDelay fs s.lines h1 h2 h3 hclk
    rw [hd.lines, hp, ck, sel, dd, hd.frames]
    refine ⟨hclk, ?_, dclk, ?_, ddin⟩
    · by_cases hf : fs = [] <;> simp [hf, hcs]
    · by_cases hf : fs = [] <;> simp [hf, dcs]
  · intro kHz j hp _
    rw [hd.spi]
    exact hi.bus kHz j (ht ▸ hp) hs

/-- Delivery does not speak of the shadows. -/
theorem delivered_withShadows {s t : State} {fs : List Frame} (h : Delivered s fs t) (v : Reg Byte)
    (down test : Reg Bool) : Delivered s fs { t with intensity := v, shutdown := down, displayTest := test } :=
  ⟨h.frames, h.events, h.setting, h.commDelay, h.session, h.returns, h.busy, h.spi, h.lines, h.engine, h.hardware⟩

/-- INITIALIZE establishes what Active asks for (R49 c and d, R234). -/
theorem inv_initialised {s : State} {n m : Byte} (hi : Inv s) (hn : 1 ≤ n.toNat ∧ n.toNat ≤ 8)
    (hm : m = Config.decodeNone ∨ m = Config.decodeCodeB) :
    Inv (setBusy false (initialiseBody n m (setBusy true s))) := by
  have he := emitted_initialiseBody n m (setBusy true s)
  refine ⟨⟨rfl, initialiseBody_pos n m _ hi.quiet.2⟩, memWf_initialiseBody n m _ hi.sinkCanonical, ?_, ?_, ?_, ?_, ?_,
    (emitted_keeps_folds (s := setBusy true s) hi.folds he :)⟩
  · exact fun clk cs din hp => hi.linesDistinct clk cs din (he.transport ▸ hp)
  · intro h
    exact absurd ((initialiseBody_session n m _).symm.trans h) (by decide)
  · intro _
    obtain ⟨h1, h2, h3, h4, h5⟩ := initialiseBody_shadows n m (setBusy true s)
    simp [h1, h2, h3, h4, h5, hn, hm]
  · intro clk cs din hp _
    have hp : s.transport = .software clk cs din := he.transport ▸ hp
    obtain ⟨h1, h2, h3⟩ := hi.linesDistinct clk cs din hp
    obtain ⟨ck, sel, dd⟩ := initialiseBody_lines_software (s := setBusy true s) n m hp h1 h2 h3
    simp [ck, sel, dd, initialiseBody_frames, initialiseFrames]
  · intro kHz j hp _
    have hp : s.transport = .hardware kHz j := he.transport ▸ hp
    simp [initialiseBody_spi_hardware (s := setBusy true s) n m hp]

/-- END_OPERATIONS leaves Active, so that only the shadows and the fold of the trace are asked for. -/
theorem inv_finished {s : State} (hi : Inv s) (hs : s.session = .active) :
    Inv (setBusy false (setSession .ended (sessionEnd (setBusy true s)))) where
  quiet := ⟨rfl, hi.quiet.2⟩
  sinkCanonical := hi.sinkCanonical
  linesDistinct := hi.linesDistinct
  fresh := fun h => nomatch h
  shadows := fun _ => hi.shadows (by simp [hs])
  linesAtRest := fun _ _ _ _ h => nomatch h
  bus := fun _ _ _ h => nomatch h
  folds := emitted_keeps_folds (s := s) hi.folds ⟨rfl, rfl, rfl, rfl⟩

/-- Every instruction keeps the invariant. -/
theorem exec_keeps_inv {i : Instr} {s t : State} (hi : Inv s) (hx : exec i s = .next t) : Inv t := by
  have hk : SinkCanonical t := everyInstructionKeepsTheChipCanonical s t i hi.sinkCanonical hx
  have legal (h : s.session = .active) := hi.shadows (by simp [h])
  cases exec_effect hx with
  | received a d _ _ h => exact h ▸ inv_chipReceive hi a d
  | constructed p _ hp h => exact h ▸ inv_construct hi.sinkCanonical hp
  | began _ hs h => exact absurd (hi.quiet.1.symm.trans hs.1) (by decide)
  | closed _ hs h => exact absurd (hi.quiet.1.symm.trans hs.1) (by decide)
  | delayed us _ _ h => exact h ▸ inv_storeCommDelay hi us
  | delayRead _ _ h => exact h ▸ inv_returnToHost hi s.commDelay
  | initialised n m _ _ hn hm h => exact h ▸ inv_initialised hi hn hm
  | wrote fs _ hs _ h =>
    subst h
    exact inv_of_delivered hi hs.2.2 (writeFrames_delivered fs s) hk fun _ => by simpa using legal hs.2.2
  | brightened v _ hs hv h =>
    subst h
    refine inv_of_delivered hi hs.2.2
      (delivered_withShadows (writeFrames_delivered [⟨0x0A#8, v⟩] s) (.stored v) _ _) hk fun _ => ?_
    simp [hv, legal hs.2.2]
  | shut on _ hs h =>
    subst h
    refine inv_of_delivered hi hs.2.2
      (delivered_withShadows (writeFrames_delivered [⟨0x0C#8, shutdownOperand on⟩] s) _ (.stored on) _) hk fun _ => ?_
    simp [legal hs.2.2]
  | tested on _ hs h =>
    subst h
    refine inv_of_delivered hi hs.2.2
      (delivered_withShadows (writeFrames_delivered [⟨0x0F#8, displayTestOperand on⟩] s) _ _ (.stored on)) hk
      fun _ => ?_
    simp [legal hs.2.2]
  | finished _ hs h => exact h ▸ inv_finished hi hs.2.2

/-- Settles O57: the presentation taken off the list is not spoken of, and every instruction keeps the invariant. -/
theorem stepKeepsTheBlockInvariant : Obligations.StepKeepsTheBlockInvariant := by
  unfold Obligations.StepKeepsTheBlockInvariant
  intro s t hi h
  obtain ⟨-, rfl⟩ | ⟨ready, rest, -, rfl⟩ | ⟨e, i, rest, -, -, hx⟩ := step_cases h
  · exact hi
  · exact ⟨hi.quiet, hi.sinkCanonical, hi.linesDistinct, hi.fresh, hi.shadows, hi.linesAtRest, hi.bus, hi.folds⟩
  · exact exec_keeps_inv (inv_withPending hi rest) hx

/-- Settles O58: the state after reset is a construction on three distinct lines. -/
theorem resetMeetsTheBlockInvariant : Obligations.ResetMeetsTheBlockInvariant := by
  unfold Obligations.ResetMeetsTheBlockInvariant
  have distinct : ∀ clk cs din, Transport.software 11#8 8#8 10#8 = .software clk cs din →
      clk ≠ cs ∧ clk ≠ din ∧ cs ≠ din := by
    rintro _ _ _ ⟨⟩
    decide
  exact ⟨inv_construct (s := State.reset) rfl distinct, framesCarried_construct _ State.reset⟩

end Sys2Proof.Machine
end

section
/-! The step and reset (O6, O8, O9), the session and frame engine (O12, O19), frames at the chip (O46, O47), and what
the frames of a command leave there (O15, O25, O35, O37, O42, O43). -/

namespace Sys2Proof.Machine

open Sys2Proof.Safety

/-! ### The step, construction, session begin and the engine -/

/-- Settles O6: taking the presentation off the list is `takeInput`. -/
theorem stepRunsDecodedInstruction : Obligations.StepRunsDecodedInstruction := by
  unfold Obligations.StepRunsDecodedInstruction
  intro s e rest i hp hd
  simp [step, hp, hd, takeInput]

/-- Construction answers the reset table (R52). -/
theorem constructedOn_construct (p : Transport) (s : State) : ConstructedOn p s (construct p s) where
  transport := rfl
  commDelay := rfl
  session := rfl
  noShadow := ⟨rfl, rfl, rfl, rfl, rfl⟩
  busy := rfl
  engine := ⟨rfl, rfl⟩
  lines := rfl
  bus := ⟨rfl, rfl, rfl, rfl, rfl, rfl⟩
  traces := ⟨rfl, rfl⟩
  chip := rfl
  host := ⟨rfl, rfl⟩

/-- Settles O8: the state after reset is its own construction, and its chip has no value. -/
theorem resetIsAFreshInstance : Obligations.ResetIsAFreshInstance :=
  ⟨constructedOn_construct _ State.reset, memRead_nil⟩

/-- Settles O9: a constructor whose operands are legal runs `construct`. -/
theorem constructionFollowsTheResetTable : Obligations.ConstructionFollowsTheResetTable := by
  unfold Obligations.ConstructionFollowsTheResetTable
  constructor
  · intro s clk cs din h1 h2 h3
    exact ⟨_, by simp [exec, execResetSw, linesLegal, h1, h2, h3], constructedOn_construct _ s, rfl⟩
  · intro s kHz i line hl
    have hi : csLineOf i = some line := by simp [csLineOf, hl, line.isLt]
    exact ⟨_, by simp [exec, execResetHw, hi], constructedOn_construct _ s, rfl⟩

/-- Settles O12: the divider is `dividerFor`, and the bus takes the six events' effect. -/
theorem beginSessionOnTheHardwarePath : Obligations.BeginSessionOnTheHardwarePath := by
  unfold Obligations.BeginSessionOnTheHardwarePath
  intro s kHz i hs ht
  refine ⟨dividerFor kHz, fun h => if_pos h, fun h => if_neg (by omega), ?_⟩
  have run : exec .beginSession s = .next (sessionBegin s) := by
    simp [exec, execBeginSession, (microAdmission_none_iff _ s).mpr hs]
  rw [run, sessionBegin, emitAll, ht, beginEvents_spi]
  rfl

/-- Settles O19: the engine's run of a frame, and its recursion one event at a time. -/
theorem engineEmitsTheBitCells : Obligations.EngineEmitsTheBitCells := by
  unfold Obligations.EngineEmitsTheBitCells
  exact fun clk din delay a d => ⟨engineRun_frame clk din delay a d, fun _ _ _ _ => rfl⟩

/-! ### Frames that arrive at the chip -/

/-- A frame for a register stores its byte there and writes nothing else (R38). -/
theorem chipReceive_stores {a : Byte} (d : Byte) (s : State) (h : a.toNat ∈ storableCodes) :
    memRead (chipReceive a d s).sink a.toNat = some d ∧ SinkSameOutside [a.toNat] s (chipReceive a d s) ∧
      chipReceive a d s = { s with sink := (chipReceive a d s).sink } := by
  refine ⟨chipReceive_register_read d s h, fun code hc => ?_, ?_⟩
  · exact chipReceive_register_other d s h (by simpa using hc)
  · rw [chipReceive_register d s h]

/-- Settles O46: each DIGIT row is the receipt of a frame for its register. -/
theorem digitFramesStoreTheSegments : Obligations.DigitFramesStoreTheSegments := by
  unfold Obligations.DigitFramesStoreTheSegments
  intro s d i r hi
  simp only [List.mem_cons, Prod.mk.injEq, List.not_mem_nil, or_false] at hi
  obtain ⟨rfl, rfl⟩ | ⟨rfl, rfl⟩ | ⟨rfl, rfl⟩ | ⟨rfl, rfl⟩ | ⟨rfl, rfl⟩ | ⟨rfl, rfl⟩ | ⟨rfl, rfl⟩ | ⟨rfl, rfl⟩ := hi
  · exact ⟨_, rfl, chipReceive_stores (a := 0x01#8) d s (by decide)⟩
  · exact ⟨_, rfl, chipReceive_stores (a := 0x02#8) d s (by decide)⟩
  · exact ⟨_, rfl, chipReceive_stores (a := 0x03#8) d s (by decide)⟩
  · exact ⟨_, rfl, chipReceive_stores (a := 0x04#8) d s (by decide)⟩
  · exact ⟨_, rfl, chipReceive_stores (a := 0x05#8) d s (by decide)⟩
  · exact ⟨_, rfl, chipReceive_stores (a := 0x06#8) d s (by decide)⟩
  · exact ⟨_, rfl, chipReceive_stores (a := 0x07#8) d s (by decide)⟩
  · exact ⟨_, rfl, chipReceive_stores (a := 0x08#8) d s (by decide)⟩

/-- Settles O47: each control row is the receipt of a frame for its register, and the no-op's changes nothing. -/
theorem controlFramesStoreTheirByte : Obligations.ControlFramesStoreTheirByte := by
  unfold Obligations.ControlFramesStoreTheirByte
  refine ⟨?_, fun s d => rfl⟩
  intro s d i r hi
  simp only [List.mem_cons, Prod.mk.injEq, List.not_mem_nil, or_false] at hi
  obtain ⟨rfl, rfl⟩ | ⟨rfl, rfl⟩ | ⟨rfl, rfl⟩ | ⟨rfl, rfl⟩ | ⟨rfl, rfl⟩ := hi
  · exact ⟨_, rfl, chipReceive_stores (a := 0x09#8) d s (by decide)⟩
  · exact ⟨_, rfl, chipReceive_stores (a := 0x0A#8) d s (by decide)⟩
  · exact ⟨_, rfl, chipReceive_stores (a := 0x0B#8) d s (by decide)⟩
  · exact ⟨_, rfl, chipReceive_stores (a := 0x0C#8) d s (by decide)⟩
  · exact ⟨_, rfl, chipReceive_stores (a := 0x0F#8) d s (by decide)⟩

/-! ### The frames of a command -/

/-- The state after a command that writes the frames `fs` and no shadow: busy while it runs (R31, R71). -/
def sent (fs : List Frame) (s : State) : State := setBusy false (writeFrames fs (setBusy true s))

theorem sent_delivered (fs : List Frame) (s : State) : Delivered s fs (sent fs s) := writeFrames_delivered fs s

theorem sent_sameShadows (fs : List Frame) (s : State) : SameShadows s (sent fs s) := by
  simp [SameShadows, sent]

/-- What no frame addresses stays (R38). -/
theorem sent_outside {fs : List Frame} (s : State) (h : ∀ f ∈ fs, f.addr.toNat ∈ storableCodes) :
    SinkSameOutside (fs.map fun f => f.addr.toNat) s (sent fs s) := writeFrames_outside fs (setBusy true s) h

theorem exec_writeFrame_ready {s : State} (hs : Ready s .active) (a d : Byte) :
    exec (.writeFrame a d) s = .next (sent [⟨a, d⟩] s) := by
  rw [exec, execWriteFrame, whenAdmitted_ready hs]
  rfl

/-- A no-op frame leaves the chip (R39). -/
theorem sent_noop_sink (d : Byte) (s : State) : (sent [⟨0x00#8, d⟩] s).sink = s.sink :=
  writeFrame_sink 0x00#8 d (setBusy true s)

/-- Settles O15: WRITE_FRAME sends its one frame. -/
theorem writeFrameDeliversItsFrame : Obligations.WriteFrameDeliversItsFrame := by
  unfold Obligations.WriteFrameDeliversItsFrame
  intro s a d hs
  refine ⟨_, exec_writeFrame_ready hs a d, sent_delivered _ s, sent_sameShadows _ s, fun hr => ⟨?_, ?_⟩, ?_⟩
  · exact (writeFrame_read d (setBusy true s) hr a.toNat).trans (if_pos rfl)
  · exact sent_outside (fs := [⟨a, d⟩]) s (List.forall_mem_singleton.mpr hr)
  · rintro rfl
    exact sent_noop_sink d s

/-! ### INITIALIZE at the chip -/

theorem writeFrames_append (fs gs : List Frame) (s : State) :
    writeFrames (fs ++ gs) s = writeFrames gs (writeFrames fs s) := List.foldl_append

/-- Clearing `n` digits stores 0x00 in registers 1..`n` and nowhere else (R162). -/
theorem clearFrames_read (n : Nat) (h : n ≤ 8) (s : State) (r : Nat) :
    memRead (writeFrames (clearFrames n) s).sink r
      = if 1 ≤ r ∧ r ≤ n then some 0x00#8 else memRead s.sink r := by
  induction n with
  | zero => rw [if_neg (by omega)]; rfl
  | succ n ih =>
    have last : clearFrames (n + 1) = clearFrames n ++ [⟨BitVec.ofNat 8 (n + 1), 0x00#8⟩] := by
      simp [clearFrames, List.range_succ]
    have addr : (BitVec.ofNat 8 (n + 1)).toNat = n + 1 := by simp; omega
    rw [last, writeFrames_append, writeFrames_cons, writeFrames_nil,
      writeFrame_read _ _ (by rw [addr]; exact digit_storable (by omega) h), addr, ih (by omega)]
    by_cases hr : r = n + 1
    · simp [hr]
    · have hiff : (1 ≤ r ∧ r ≤ n + 1) ↔ (1 ≤ r ∧ r ≤ n) := by omega
      simp [hr, hiff]

/-- Every register of the chip after INITIALIZE (R161, R234). -/
theorem initialiseBody_read {n : Byte} (m : Byte) (hn : n.toNat ≤ 8) (s : State) (r : Nat) :
    memRead (initialiseBody n m s).sink r =
      if r = 0x0A then some 0x08#8
      else if 1 ≤ r ∧ r ≤ n.toNat then some 0x00#8
      else if r = 0x0F then some 0x00#8
      else if r = 0x0C then some 0x01#8
      else if r = 0x09 then some m
      else if r = 0x0B then some (scanLimitOperand n)
      else memRead s.sink r := by
  have at9 := fun d s => writeFrame_read (a := 0x09#8) d s (by decide) r
  have atA := fun d s => writeFrame_read (a := 0x0A#8) d s (by decide) r
  have atB := fun d s => writeFrame_read (a := 0x0B#8) d s (by decide) r
  have atC := fun d s => writeFrame_read (a := 0x0C#8) d s (by decide) r
  have atF := fun d s => writeFrame_read (a := 0x0F#8) d s (by decide) r
  simp [initialiseBody, sessionBegin, at9, atA, atB, atC, atF, clearFrames_read n.toNat hn, shutdownOperand,
    displayTestOperand]

/-- What an accepted INITIALIZE did (R161). -/
theorem exec_initialise_next {n m : Byte} {s t : State} (hx : exec (.initialise n m) s = .next t) :
    (1 ≤ n.toNat ∧ n.toNat ≤ 8) ∧ t = setBusy false (initialiseBody n m (setBusy true s)) := by
  cases exec_effect hx with
  | initialised n' m' hi _ hn _ h =>
    obtain ⟨rfl, rfl⟩ := Instr.initialise.inj hi
    exact ⟨hn, h⟩
  | constructed _ hc => exact nomatch hc
  | brightened _ hi => obtain ⟨_, hi⟩ := hi; exact nomatch hi
  | began hi | closed hi | delayRead hi | finished hi => exact nomatch hi
  | delayed _ hi | wrote _ hi | shut _ hi | tested _ hi => exact nomatch hi
  | received _ _ hi => exact nomatch hi

/-- The scan-limit operand does not wrap for a digit count of at least 1 (R96). -/
theorem scanLimitOperand_eq {n : Byte} (h : 1 ≤ n.toNat) : scanLimitOperand n = BitVec.ofNat 8 (n.toNat - 1) := by
  apply BitVec.eq_of_toNat_eq
  simp [scanLimitOperand]
  omega

/-- Settles O25: read off from every register of the chip after INITIALIZE. -/
theorem initializeSetsTheChip : Obligations.InitializeSetsTheChip := by
  unfold Obligations.InitializeSetsTheChip
  intro s t n m hx
  obtain ⟨⟨h1, h8⟩, rfl⟩ := exec_initialise_next hx
  simp only [setBusy_sink, initialiseBody_read m h8, scanLimitOperand_eq h1]
  refine ⟨?_, ?_, ?_, ?_, ?_, fun r hr1 hrn => ?_, fun r hr hc => ?_⟩
  · simp; omega
  · simp; omega
  · simp; omega
  · simp
  · simp
  · simp [hr1, hrn, show r ≠ 10 by omega]
  · simp only [List.mem_cons, List.not_mem_nil, or_false, not_or] at hc
    simp [hr, hc]

/-! ### Rendered texts -/

/-- What a command that renders items from register `top` downward leaves (R38, R186). -/
structure Rendered (s t : State) (top : Nat) (items : List Item) (fs : List Frame) : Prop where
  delivered : Delivered s fs t
  placed : PlacedFrom top (min items.length top) items fs
  chip : ∀ j it, j < top → items[j]? = some it → memRead t.sink (top - j) = some (segmentByte it.char it.dp)
  shadows : SameShadows s t
  addresses : ∀ f ∈ fs, 1 ≤ f.addr.toNat ∧ f.addr.toNat ≤ top
  outside : SinkSameOutside (fs.map fun f => f.addr.toNat) s t

theorem rendered_unaligned {top : Nat} (h : top ≤ 8) (items : List Item) (s : State) :
    Rendered s (sent (unalignedFrames top items) s) top items (unalignedFrames top items) where
  delivered := sent_delivered _ s
  placed := unalignedFrames_placed top items
  chip := fun j it hj hit => unalignedFrames_read top h items (setBusy true s) j it hj hit
  shadows := sent_sameShadows _ s
  addresses := unalignedFrames_addr top h items
  outside := sent_outside s (unalignedFrames_storable top h items)

/-- A command whose body renders a text on the display's digits leaves the text's items rendered (R186). -/
theorem rendered_renderUnaligned {s : State} (hn : digitsOf s ≤ 8) (text : List Byte) :
    ∃ t fs, complete (renderUnaligned text (setBusy true s)) = .next t ∧
      Rendered s t (digitsOf s) (textItems text) fs :=
  ⟨_, _, rfl, rendered_unaligned hn (textItems text) s⟩

/-- Settles O35: DISPLAY_TEXT renders its items from register `digitCount` downward. -/
theorem displayTextFillsFromTheLeft : Obligations.DisplayTextFillsFromTheLeft := by
  unfold Obligations.DisplayTextFillsFromTheLeft
  rintro s text n hs rfl hn
  obtain ⟨t, fs, hx, r⟩ := rendered_renderUnaligned hn text
  refine ⟨t, fs, ?_, r.delivered, r.placed, r.chip, r.shadows, r.outside⟩
  rw [exec, execDisplayText, whenAdmitted_ready hs, hx]

/-- With no index below 0, Right alignment sends its items from digit `effLen - 1` downward (R185). -/
theorem exec_rightAligned_ready {s : State} {text : List Byte} (hs : Ready s .active)
    (hfit : min (textItems text).length (digitsOf s) ≤ effLen text (digitsOf s)) :
    exec (.displayTextAligned text .right) s
      = .next (sent (unalignedFrames (effLen text (digitsOf s)) (textItems text)) s) := by
  have hplace : alignedFrames (effLen text (digitsOf s)) (digitsOf s) 0 (textItems text)
      = some (unalignedFrames (effLen text (digitsOf s)) (textItems text)) :=
    alignedFrames_right _ _ 0 _ (effLen_le text _) (by simpa using hfit)
  have same : digitsOf (setBusy true s) = digitsOf s := rfl
  simp only [exec, execDisplayTextAligned, whenAdmitted_ready hs, same, hplace]
  rfl

/-- Settles O37: it is the unaligned rendering from register `effLen`, which holds as many items as `digitCount`. -/
theorem rightAlignedTextIsRightJustified : Obligations.RightAlignedTextIsRightJustified := by
  unfold Obligations.RightAlignedTextIsRightJustified
  rintro s text n hs rfl hn hfit
  have htop := effLen_le text (digitsOf s)
  have hfit : min (textItems text).length (digitsOf s) ≤ effLen text (digitsOf s) := hfit
  have r := rendered_unaligned (Nat.le_trans htop hn) (textItems text) s
  have hcount : min (textItems text).length (effLen text (digitsOf s)) = min (textItems text).length (digitsOf s) := by
    omega
  refine ⟨_, _, exec_rightAligned_ready hs hfit, r.delivered, hcount ▸ r.placed, ?_, r.shadows, r.outside⟩
  intro j it hj hit
  have hlen := (List.getElem?_eq_some_iff.mp hit).1
  have hj : j < digitsOf s := hj
  exact r.chip j it (by omega) hit

/-- Where a text has no `'.'`, the frames are its characters' glyphs, and the chip holds them (R186). -/
theorem Rendered.glyphs {s t : State} {top : Nat} {text : List Byte} {fs : List Frame}
    (r : Rendered s t top (textItems text) fs) (hdot : charDot ∉ text) :
    fs.length = min text.length top ∧ ∀ j c, j < top → text[j]? = some c →
      fs[j]? = some ⟨BitVec.ofNat 8 (top - j), glyph c⟩ ∧ memRead t.sink (top - j) = some (glyph c) := by
  obtain ⟨hlen, hplaced⟩ := r.placed
  rw [textItems_length_of_no_dot text hdot] at hlen hplaced
  refine ⟨hlen, fun j c hj hc => ?_⟩
  have hit : (textItems text)[j]? = some ⟨c, false⟩ := by simp [textItems_of_no_dot text hdot, hc]
  have hjt := (List.getElem?_eq_some_iff.mp hc).1
  rw [← segmentByte_false c]
  exact ⟨hplaced j _ (by omega) hit, r.chip j _ hj hit⟩

/-- Settles O42: the formatted number has no `'.'` and fills every digit. -/
theorem displayIntegerRewritesEveryDigit : Obligations.DisplayIntegerRewritesEveryDigit := by
  unfold Obligations.DisplayIntegerRewritesEveryDigit
  rintro s v al n hs rfl hn
  obtain ⟨t, fs, hx, r⟩ := rendered_renderUnaligned hn (formatInt v (digitsOf s) al)
  obtain ⟨hlen, hglyphs⟩ := r.glyphs (formatInt_no_dot v _ al)
  have hfull : digitsOf s ≤ (formatInt v (digitsOf s) al).length := by
    rw [formatInt_length]
    exact Nat.le_max_left _ _
  refine ⟨t, fs, ?_, r.delivered, hlen.trans (Nat.min_eq_right hfull), hglyphs, r.shadows, fun code hc => ?_⟩
  · rw [exec, execDisplayInteger, whenAdmitted_ready hs]
    exact hx
  · refine r.outside code fun hm => hc ?_
    obtain ⟨f, hf, rfl⟩ := List.mem_map.mp hm
    exact r.addresses f hf

/-- Settles O43: the two formatted halves have no `'.'`, and a display of two digits or more has a half. -/
theorem displayTwoFieldsSplitsTheDigits : Obligations.DisplayTwoFieldsSplitsTheDigits := by
  unfold Obligations.DisplayTwoFieldsSplitsTheDigits
  rintro s u l al n text hs rfl h2 hn rfl
  have hdot : charDot ∉ twoFieldsText u l (digitsOf s) al := by simp [twoFieldsText, formatInt_no_dot]
  obtain ⟨t, fs, hx, r⟩ := rendered_renderUnaligned hn (twoFieldsText u l (digitsOf s) al)
  obtain ⟨hlen, hglyphs⟩ := r.glyphs hdot
  have hhalf : ¬ digitsOf (setBusy true s) / 2 = 0 := by simp [digitsOf]; omega
  refine ⟨t, fs, ?_, r.delivered, hlen, hglyphs, r.shadows, r.outside⟩
  rw [exec, execDisplayTwoFields, whenAdmitted_ready hs, if_neg hhalf]
  exact hx

end Sys2Proof.Machine
end

section
/-! Whole-machine rules: what no-op frames and busy do (O45, O50), and what only some instructions write (O51, O53, O54,
O55). -/

namespace Sys2Proof.Machine

open Sys2Proof.Safety

/-! ### Which frames a command sends -/

/-- The frames an instruction other than WRITE_FRAME delivers are for registers of the chip, where the digit count is at
most 8 in Active (R49 c and e). -/
theorem exec_frames_storable {i : Instr} {s t : State} {fs : List Frame} (hx : exec i s = .next t)
    (ht : t.frames = s.frames ++ fs) (hw : ∀ a d, i ≠ .writeFrame a d)
    (hn : s.session = .active → s.digitCount.val.toNat ≤ 8) : ∀ f ∈ fs, f.addr.toNat ∈ storableCodes := by
  have gained {gs : List Frame} (hg : t.frames = s.frames ++ gs) (h : ∀ f ∈ gs, f.addr.toNat ∈ storableCodes) :
      ∀ f ∈ fs, f.addr.toNat ∈ storableCodes := by
    rwa [List.append_cancel_left (ht.symm.trans hg)]
  have silent (hs : t.frames = s.frames) : ∀ f ∈ fs, f.addr.toNat ∈ storableCodes :=
    gained (gs := []) (by simp [hs]) (by simp)
  cases exec_effect hx with
  | received a d _ _ h => exact silent (by simp [h])
  | constructed p _ _ h =>
    subst h
    simp [(List.append_eq_nil_iff.mp ht.symm).2]
  | began _ _ h => exact silent (by simp [h, sessionBegin])
  | closed _ _ h => exact silent (by simp [h, sessionEnd])
  | delayed us _ _ h => exact silent (by simp [h])
  | delayRead _ _ h => exact silent (by simp [h])
  | initialised n m _ _ hc _ h =>
    exact gained (by simp [h, initialiseBody_frames]) (initialiseFrames_storable n m hc.2)
  | wrote gs _ hs hf h =>
    refine gained (gs := gs) (by simp [h]) ?_
    obtain ⟨a, d, hi, -⟩ | hf := hf
    · exact absurd hi (hw a d)
    · exact hf (hn hs.2.2)
  | brightened v _ _ _ h => exact gained (gs := [⟨0x0A#8, v⟩]) (by simp [h]) (by simp [storableCodes])
  | shut on _ _ h => exact gained (gs := [⟨0x0C#8, shutdownOperand on⟩]) (by simp [h]) (by simp [storableCodes])
  | tested on _ _ h => exact gained (gs := [⟨0x0F#8, displayTestOperand on⟩]) (by simp [h]) (by simp [storableCodes])
  | finished _ _ h => exact silent (by simp [h, sessionEnd])

/-- Settles O53: the digit count is at most 8 in any session state. -/
theorem commandFramesUseDefinedCodes : Obligations.CommandFramesUseDefinedCodes := by
  unfold Obligations.CommandFramesUseDefinedCodes
  exact fun s t i fs hn hx ht hw => exec_frames_storable hx ht hw fun _ => hn

/-- Settles O45: a frame for the no-op is for no register, so only WRITE_FRAME sends one. -/
theorem noopFramesChangeNothing : Obligations.NoopFramesChangeNothing := by
  unfold Obligations.NoopFramesChangeNothing
  refine ⟨fun s d => ⟨s, rfl, rfl⟩, fun s d hs => ⟨_, exec_writeFrame_ready hs _ d, sent_noop_sink d s⟩, ?_⟩
  rintro i s t fs hl hx ht ⟨f, hf, hf0⟩
  by_cases hw : ∀ a d, i ≠ .writeFrame a d
  · have hn (hs : s.session = .active) : s.digitCount.val.toNat ≤ 8 := by
      obtain ⟨-, -, h8, -⟩ := hl (by simp [hs])
      exact h8
    exact absurd hf0 (storable_ne_zero (exec_frames_storable hx ht hw hn f hf))
  · push Not at hw
    obtain ⟨a, d, rfl⟩ := hw
    rw [exec, execWriteFrame] at hx
    obtain ⟨-, hb⟩ := whenAdmitted_next hx
    rw [complete_next hb] at ht
    have hfs : fs = [⟨a, d⟩] := by simpa using ht.symm
    subst hfs
    obtain rfl := List.mem_singleton.mp hf
    exact ⟨d, by rw [← hf0]⟩

/-! ### Busy -/

/-- A session-bound command is its body, run where it is admitted (R160, R211). -/
theorem exec_eq_whenAdmitted {i : Instr} {need : Session} (h : neededSession i = some need) :
    ∃ body, ∀ s, exec i s = whenAdmitted need s body := by
  cases i with
  | noop | digit0 | digit1 | digit2 | digit3 | digit4 | digit5 | digit6 | digit7 => exact nomatch h
  | decodeMode | intensity | scanLimit | shutdown | displayTest => exact nomatch h
  | resetSw | resetHw | beginSession | endSession | setCommDelay | getCommDelay => exact nomatch h
  | _ =>
    obtain rfl := Option.some.inj h
    unfold exec
    exact ⟨_, fun _ => rfl⟩

/-- Settles O50: no command is admitted while busy, and a command's last act is to clear `busy`. -/
theorem busyBlocksCommands : Obligations.BusyBlocksCommands := by
  unfold Obligations.BusyBlocksCommands
  constructor
  · rintro s i hb (⟨need, hi⟩ | ⟨us, rfl⟩ | rfl)
    · obtain ⟨body, hx⟩ := exec_eq_whenAdmitted hi
      rw [hx, whenAdmitted_busy hb]
    · simp [exec, execSetCommDelay, hb]
    · simp [exec, execGetCommDelay, hb]
  · intro s t i need hi hx
    cases exec_effect hx with
    | received a d hn _ h => exact nomatch hi.symm.trans hn
    | constructed p hc _ h => exact nomatch (not_isConstructor_of_neededSession hi).symm.trans hc
    | began he _ h | closed he _ h | delayed _ he _ h | delayRead he _ h => subst he; exact nomatch hi
    | initialised _ _ _ _ _ _ h | wrote _ _ _ _ h | brightened _ _ _ _ h => rw [h]; rfl
    | shut _ _ _ h | tested _ _ _ h | finished _ _ h => rw [h]; rfl

/-! ### What only some instructions write -/

/-- Settles O51: of everything an instruction can do, only a construction, INITIALIZE and END_OPERATIONS store a session
state. -/
theorem sessionTransitionsAreTheTwo : Obligations.SessionTransitionsAreTheTwo := by
  unfold Obligations.SessionTransitionsAreTheTwo
  intro s t i hx
  cases exec_effect hx with
  | received a d _ hc h => simp [hc, h]
  | constructed p hc _ h => simp [hc, h]
  | began hi _ h => simp [hi, isConstructor, h, sessionBegin]
  | closed hi _ h => simp [hi, isConstructor, h, sessionEnd]
  | delayed us hi _ h => simp [hi, isConstructor, h]
  | delayRead hi _ h => simp [hi, isConstructor, h]
  | initialised n m hi hs _ _ h => simp [hi, isConstructor, h, initialiseBody_session, hs.2.2]
  | wrote fs hi _ _ h => simp [not_isConstructor_of_neededSession hi, h]
  | brightened v hi _ _ h =>
    obtain ⟨l, rfl⟩ := hi
    simp [isConstructor, h]
  | shut on hi _ h => simp [hi, isConstructor, h]
  | tested on hi _ h => simp [hi, isConstructor, h]
  | finished hi hs h => simp [hi, isConstructor, h, hs.2.2]

/-- Settles O54: of everything an instruction can do, each storing of a shadow is one command's. -/
theorem shadowsAreWrittenByTheirCommands : Obligations.ShadowsAreWrittenByTheirCommands := by
  unfold Obligations.ShadowsAreWrittenByTheirCommands
  intro s t i hx hc hi
  cases exec_effect hx with
  | received a d _ _ h => simp [h]
  | constructed p hp => exact nomatch hc.symm.trans hp
  | began _ _ h => simp [h, sessionBegin]
  | closed _ _ h => simp [h, sessionEnd]
  | delayed us _ _ h => simp [h]
  | delayRead _ _ h => simp [h]
  | initialised n m he => exact absurd he (hi n m)
  | wrote fs _ _ _ h => simp [h]
  | brightened v he _ _ h =>
    obtain ⟨l, rfl⟩ := he
    simp [h]
  | shut on he _ h => simp [h, he]
  | tested on he _ h => simp [h, he]
  | finished _ _ h => simp [h, sessionEnd]

/-- Settles O55: what is no construction appends to the traces on the same path. -/
theorem transportIsFixed : Obligations.TransportIsFixed := by
  unfold Obligations.TransportIsFixed
  intro s t i hx hc
  obtain ⟨hp, -⟩ | ⟨-, es, fs, -, ha⟩ := exec_traces hx
  · exact nomatch hc.symm.trans hp
  · exact ha.transport

end Sys2Proof.Machine
end

section
/-! What steers nothing: the delay register on the hardware path (O21), and the shadows other than the digit count and
the chip's registers (O56). Both follow from simulations: relations between two states that every write of the block
keeps and whose states agree on everything an instruction reads. -/

namespace Sys2Proof.Machine

open Sys2Proof.Safety

/-! ### Simulations -/

/-- The two states answer the same wherever an instruction reads: the path, acceptance (R205), the digit count (R26),
and on the software path the delay (R107 d). -/
structure SameReads (s u : State) : Prop where
  transport : u.transport = s.transport
  busy : u.busy = s.busy
  busReady : u.busReady = s.busReady
  session : u.session = s.session
  digitCount : u.digitCount = s.digitCount
  delay : hardwareActive s = false → u.commDelay = s.commDelay

/-- A relation that every write of the block and the chip keeps, and whose states answer the same where an instruction
reads. -/
structure Simulation (R : State → State → Prop) : Prop where
  reads {s u} : R s u → SameReads s u
  construct {s u} : R s u → ∀ p, R (construct p s) (construct p u)
  emitAll {s u} : R s u → ∀ es, R (emitAll es s) (emitAll es u)
  setBusy {s u} : R s u → ∀ b, R (setBusy b s) (setBusy b u)
  setSession {s u} : R s u → ∀ v, R (setSession v s) (setSession v u)
  storeDigitCount {s u} : R s u → ∀ n, R (storeDigitCount n s) (storeDigitCount n u)
  storeDecodeMode {s u} : R s u → ∀ m, R (storeDecodeMode m s) (storeDecodeMode m u)
  storeIntensity {s u} : R s u → ∀ v, R (storeIntensity v s) (storeIntensity v u)
  storeShutdown {s u} : R s u → ∀ on, R (storeShutdown on s) (storeShutdown on u)
  storeDisplayTest {s u} : R s u → ∀ on, R (storeDisplayTest on s) (storeDisplayTest on u)
  storeCommDelay {s u} : R s u → ∀ us, R (storeCommDelay us s) (storeCommDelay us u)
  returnDelay {s u} : R s u → R (returnToHost s.commDelay s) (returnToHost u.commDelay u)
  recordFrame {s u} : R s u → ∀ a d, R (recordFrame a d s) (recordFrame a d u)
  loadShift {s u} : R s u → ∀ w, R (loadShift w s) (loadShift w u)
  setPos {s u} : R s u → ∀ p, R (setPos p s) (setPos p u)
  chipReceive {s u} : R s u → ∀ a d, R (chipReceive a d s) (chipReceive a d u)

/-- Where the first answer is a next state, so is the second, and the two are related. -/
def Follows (R : State → State → Prop) (x y : Answer) : Prop := ∀ t, x = .next t → ∃ t', y = .next t' ∧ R t t'

section
variable {R : State → State → Prop} {s u : State}

theorem follows_next (h : R s u) : Follows R (.next s) (.next u) := by
  rintro t ⟨⟩
  exact ⟨u, rfl, h⟩

theorem follows_refused (r : Refusal) (y : Answer) : Follows R (.refused r) y := fun _ h => nomatch h

theorem follows_ite {x y x' y' : Answer} {c : Prop} [Decidable c] (h : Follows R x x') (h' : Follows R y y') :
    Follows R (if c then x else y) (if c then x' else y') := by
  split
  · exact h
  · exact h'

namespace Simulation
variable (hR : Simulation R)
include hR

theorem follows_complete (h : R s u) : Follows R (complete s) (complete u) := follows_next (hR.setBusy h false)

theorem frameOnPath (h : R s u) (a d : Byte) : R (frameOnPath a d s) (frameOnPath a d u) := by
  have g := hR.reads h
  unfold Machine.frameOnPath
  rw [g.transport]
  cases ht : s.transport with
  | software clk cs din =>
    show R (frameSW clk cs din a d s) (frameSW clk cs din a d u)
    rw [frameSW_eq, frameSW_eq, g.delay (by simp [hardwareActive, ht])]
    exact hR.setPos (hR.loadShift (hR.emitAll h _) _) _
  | hardware kHz j => exact hR.emitAll h _

theorem writeFrame (h : R s u) (a d : Byte) : R (writeFrame a d s) (writeFrame a d u) :=
  hR.chipReceive (hR.recordFrame (hR.frameOnPath h a d) a d) a d

theorem writeFrames (h : R s u) (fs : List Frame) : R (writeFrames fs s) (writeFrames fs u) := by
  induction fs generalizing s u with
  | nil => exact h
  | cons f fs ih => exact ih (hR.writeFrame h f.addr f.data)

theorem sessionBegin (h : R s u) : R (sessionBegin s) (sessionBegin u) := by
  rw [Machine.sessionBegin, Machine.sessionBegin, (hR.reads h).transport]
  exact hR.emitAll h _

theorem sessionEnd (h : R s u) : R (sessionEnd s) (sessionEnd u) := by
  rw [Machine.sessionEnd, Machine.sessionEnd, (hR.reads h).transport]
  exact hR.emitAll h _

theorem initialiseBody (h : R s u) (n m : Byte) : R (initialiseBody n m s) (initialiseBody n m u) := by
  have h := hR.setSession (hR.emitAll (hR.sessionBegin (hR.storeDigitCount h n)) [.delayMillis 50]) .active
  have h := hR.storeDecodeMode (hR.writeFrame (hR.writeFrame h 0x0B#8 (scanLimitOperand n)) 0x09#8 m) m
  have h := hR.storeShutdown (hR.writeFrame h 0x0C#8 (shutdownOperand false)) false
  have h := hR.storeDisplayTest (hR.writeFrame h 0x0F#8 (displayTestOperand false)) false
  exact hR.storeIntensity (hR.writeFrame (hR.writeFrames h (clearFrames n.toNat)) 0x0A#8 0x08#8) 0x08#8

theorem digitsOf_eq (h : R s u) : digitsOf u = digitsOf s := by rw [digitsOf, (hR.reads h).digitCount, digitsOf]

theorem follows_whenAdmitted {need : Session} {body : State → Answer} (h : R s u)
    (hb : ∀ {s u}, R s u → Follows R (body s) (body u)) :
    Follows R (whenAdmitted need s body) (whenAdmitted need u body) := by
  intro t ht
  obtain ⟨hs, ht⟩ := whenAdmitted_next ht
  have g := hR.reads h
  have hu : Ready u need := by rwa [Ready, g.busy, g.busReady, g.session]
  rw [whenAdmitted_ready hu]
  exact hb (hR.setBusy h true) t ht

theorem microAdmission_eq (h : R s u) (need : Session) : microAdmission need u = microAdmission need s := by
  have g := hR.reads h
  simp only [microAdmission, g.busy, g.busReady, g.session]

theorem follows_renderPlaced (h : R s u) (fs : Option (List Frame)) :
    Follows R (renderPlaced fs s) (renderPlaced fs u) := by
  cases fs with
  | none => exact follows_refused _ _
  | some fs => exact hR.follows_complete (hR.writeFrames h fs)

theorem renderUnaligned (h : R s u) (text : List Byte) : R (renderUnaligned text s) (renderUnaligned text u) := by
  rw [Machine.renderUnaligned, Machine.renderUnaligned, hR.digitsOf_eq h]
  exact hR.writeFrames h _

/-- Every instruction keeps a simulation, and accepts in the second state what it accepts in the first. -/
theorem follows_exec (h : R s u) (i : Instr) : Follows R (exec i s) (exec i u) := by
  cases i with
  | noop d | digit0 d | digit1 d | digit2 d | digit3 d | digit4 d | digit5 d | digit6 d | digit7 d =>
    exact follows_next (hR.chipReceive h _ d)
  | decodeMode d | intensity d | scanLimit d | shutdown d | displayTest d =>
    exact follows_next (hR.chipReceive h _ d)
  | resetSw clk cs din => exact follows_ite (follows_next (hR.construct h _)) (follows_refused _ _)
  | resetHw kHz c =>
    simp only [exec, execResetHw]
    cases csLineOf c with
    | some i => exact follows_next (hR.construct h _)
    | none => exact follows_refused _ _
  | beginSession =>
    unfold exec execBeginSession
    rw [hR.microAdmission_eq h]
    cases microAdmission .uninitialized s with
    | some r => exact follows_refused _ _
    | none => exact follows_next (hR.sessionBegin h)
  | endSession =>
    unfold exec execEndSession
    rw [hR.microAdmission_eq h]
    cases microAdmission .active s with
    | some r => exact follows_refused _ _
    | none => exact follows_next (hR.sessionEnd h)
  | writeFrame a d => exact hR.follows_whenAdmitted h fun h => hR.follows_complete (hR.writeFrame h a d)
  | setCommDelay us =>
    simp only [exec, execSetCommDelay, (hR.reads h).busy]
    exact follows_ite (follows_refused _ _) (follows_next (hR.storeCommDelay h us))
  | getCommDelay =>
    simp only [exec, execGetCommDelay, (hR.reads h).busy]
    exact follows_ite (follows_refused _ _) (follows_next (hR.returnDelay h))
  | initialise n m =>
    exact hR.follows_whenAdmitted h fun h => follows_ite (follows_refused _ _)
      (follows_ite (follows_refused _ _) (hR.follows_complete (hR.initialiseBody h n m)))
  | clear =>
    unfold exec execClear
    refine hR.follows_whenAdmitted h fun h => ?_
    rw [(hR.reads h).digitCount]
    exact hR.follows_complete (hR.writeFrames h _)
  | setSegments k b =>
    exact hR.follows_whenAdmitted h fun h =>
      follows_ite (hR.follows_complete (hR.writeFrame h _ b)) (follows_refused _ _)
  | setBrightness l =>
    exact hR.follows_whenAdmitted h fun h => hR.follows_complete (hR.storeIntensity (hR.writeFrame h _ _) _)
  | setShutdown on =>
    exact hR.follows_whenAdmitted h fun h => hR.follows_complete (hR.storeShutdown (hR.writeFrame h _ _) on)
  | setDisplayTest on =>
    exact hR.follows_whenAdmitted h fun h => hR.follows_complete (hR.storeDisplayTest (hR.writeFrame h _ _) on)
  | endOperations =>
    exact hR.follows_whenAdmitted h fun h => hR.follows_complete (hR.setSession (hR.sessionEnd h) .ended)
  | displayChar k c p =>
    exact hR.follows_whenAdmitted h fun h =>
      follows_ite (hR.follows_complete (hR.writeFrame h _ _)) (follows_refused _ _)
  | displayTextAligned text al =>
    unfold exec execDisplayTextAligned
    refine hR.follows_whenAdmitted h fun h => ?_
    rw [hR.digitsOf_eq h]
    cases al with
    | rightZeros => exact hR.follows_complete h
    | left => exact hR.follows_renderPlaced h _
    | right => exact hR.follows_renderPlaced h _
  | displayText text => exact hR.follows_whenAdmitted h fun h => hR.follows_complete (hR.renderUnaligned h text)
  | displayInteger v al =>
    unfold exec execDisplayInteger
    refine hR.follows_whenAdmitted h fun h => ?_
    rw [hR.digitsOf_eq h]
    exact hR.follows_complete (hR.renderUnaligned h _)
  | displayTwoFields v l al =>
    unfold exec execDisplayTwoFields
    refine hR.follows_whenAdmitted h fun h => ?_
    rw [hR.digitsOf_eq h]
    exact follows_ite (follows_refused _ _) (hR.follows_complete (hR.renderUnaligned h _))

end Simulation
end

/-! ### The delay register on the hardware path -/

/-- The two states differ at most in the delay register and in what it returned, and on the software path in the
returned values alone. -/
def UpToDelay (s u : State) : Prop :=
  (∃ us rs, u = { s with commDelay := us, returns := rs }) ∧ (hardwareActive s = false → u.commDelay = s.commDelay)

theorem simulation_upToDelay : Simulation UpToDelay := by
  constructor
  case reads =>
    rintro s _ ⟨⟨us, rs, rfl⟩, hd⟩
    exact ⟨rfl, rfl, rfl, rfl, rfl, hd⟩
  case construct =>
    rintro s _ ⟨⟨us, rs, rfl⟩, -⟩ p
    exact ⟨⟨_, _, rfl⟩, fun _ => rfl⟩
  case storeCommDelay =>
    rintro s _ ⟨⟨us, rs, rfl⟩, -⟩ v
    exact ⟨⟨_, _, rfl⟩, fun _ => rfl⟩
  case chipReceive =>
    rintro s _ ⟨⟨us, rs, rfl⟩, hd⟩ a d
    unfold chipReceive
    split_ifs
    · exact ⟨⟨_, _, rfl⟩, hd⟩
    · exact ⟨⟨_, _, rfl⟩, hd⟩
    · exact ⟨⟨_, _, rfl⟩, hd⟩
  all_goals
    rintro s _ ⟨⟨us, rs, rfl⟩, hd⟩
    intros
    exact ⟨⟨_, _, rfl⟩, hd⟩

/-- Settles O21: on the hardware path states that differ in the delay alone are simulated, and the simulation keeps the
chip whatever the frames. -/
theorem hardwarePathIgnoresTheDelay : Obligations.HardwarePathIgnoresTheDelay := by
  unfold Obligations.HardwarePathIgnoresTheDelay
  intro s t i us hw hx
  have start : UpToDelay s { s with commDelay := us } :=
    ⟨⟨us, s.returns, rfl⟩, fun hf => nomatch hw.symm.trans hf⟩
  obtain ⟨_, hx', ⟨us', rs', rfl⟩, -⟩ := simulation_upToDelay.follows_exec start i t hx
  exact ⟨_, hx', rfl, fun _ _ => ⟨rfl, rfl⟩⟩

/-! ### The shadows and the chip -/

/-- The two states differ at most in the shadows other than the digit count, in the chip's registers and in the counter
of free values. -/
def UpToShadows (s u : State) : Prop :=
  ∃ mode level down test chip n,
    u = { s with
      decodeMode := mode, intensity := level, shutdown := down, displayTest := test, sink := chip, freeCount := n }

theorem simulation_upToShadows : Simulation UpToShadows := by
  constructor
  case reads =>
    rintro s _ ⟨mode, level, down, test, chip, n, rfl⟩
    exact ⟨rfl, rfl, rfl, rfl, rfl, fun _ => rfl⟩
  case chipReceive =>
    rintro s _ ⟨mode, level, down, test, chip, n, rfl⟩ a d
    obtain ⟨chip₁, n₁, h₁⟩ := chipReceive_onlyChip a d s
    obtain ⟨chip₂, n₂, h₂⟩ := chipReceive_onlyChip a d
      { s with
        decodeMode := mode, intensity := level, shutdown := down, displayTest := test, sink := chip, freeCount := n }
    rw [h₁, h₂]
    exact ⟨_, _, _, _, _, _, rfl⟩
  all_goals
    rintro s _ ⟨mode, level, down, test, chip, n, rfl⟩
    intros
    exact ⟨_, _, _, _, _, _, rfl⟩

/-- Settles O56: states that differ in the shadows and the chip alone are simulated. -/
theorem shadowsAndChipSteerNothing : Obligations.ShadowsAndChipSteerNothing := by
  unfold Obligations.ShadowsAndChipSteerNothing
  intro s t i mode level down test chip hx
  obtain ⟨_, hx', _, _, _, _, _, _, rfl⟩ :=
    simulation_upToShadows.follows_exec ⟨mode, level, down, test, chip, s.freeCount, rfl⟩ i t hx
  exact ⟨_, hx', rfl⟩

end Sys2Proof.Machine
end

section
/-! What WRITE_FRAME's own events bring a receiver (O20). -/

namespace Sys2Proof.Machine

open Sys2Proof.Safety

/-- On the software path WRITE_FRAME appends one frame's waveform (R137). -/
theorem sent_events_software {s : State} {clk cs din : LineId} (ht : s.transport = .software clk cs din) (f : Frame) :
    (sent [f] s).events = s.events ++ softwareFrame clk cs din s.commDelay.toNat f := by
  simp [(sent_delivered [f] s).events, traceOf, pathEvents, ht]

/-- Settles O20: WRITE_FRAME appends one frame's waveform, and a receiver whose clock is low and which holds no bits
takes exactly that frame from it, whatever chip-select was before. -/
theorem receiverGetsTheFrameSent : Obligations.ReceiverGetsTheFrameSent := by
  unfold Obligations.ReceiverGetsTheFrameSent
  intro s a d clk cs din r hs ht h1 h2 h3 hc hb
  refine ⟨_, _, _, exec_writeFrame_ready hs a d, sent_events_software ht ⟨a, d⟩, rfl, ?_⟩
  rw [receiver_softwareFrame s.commDelay.toNat ⟨a, d⟩ r h1 h2 h3 hc hb]
  exact ⟨rfl, rfl, rfl, rfl⟩

end Sys2Proof.Machine
end

section
/-! The encodings: the decoder against the encoder (O1, O2, O4), the frame words (O3), and what no row matches (O5). -/

namespace Sys2Proof

open Sys2Proof.Machine Sys2Proof.Safety

/-! ### Frame words -/

/-- A frame word is 256 times its address byte plus its data byte (R90). -/
theorem frame_toNat (w : FrameWord) : w.toNat = (frameAddr w).toNat * 256 + (frameData w).toNat := by
  simp only [frameAddr, frameData, BitVec.extractLsb'_toNat, Nat.shiftRight_eq_div_pow]
  omega

/-- A frame word whose address byte is `n` is the word of the code `n` and its data byte (R94). -/
theorem frameWord_of_addr {w : FrameWord} {n : Nat} (h : (frameAddr w).toNat = n) :
    frameWord (BitVec.ofNat 8 n) (frameData w) = w := by
  rw [← (BitVec.toNat_eq_nat.mp h).2, frameWord_fields]

/-- What a frame word decodes to is encoded as that word (R103). -/
theorem encode_of_decodeFrame {w : FrameWord} {i : Instr} (h : decodeFrame w = .ok i) :
    encode i = .frame16 w ∧ i.wellFormed = true := by
  unfold decodeFrame at h
  split at h
  case h_15 => exact nomatch h
  all_goals
    rename_i ha
    obtain rfl := Except.ok.inj h
    exact ⟨congrArg Encoded.frame16 (frameWord_of_addr ha), rfl⟩

/-- A frame word with a code of R103 is decoded by its own row. -/
theorem decodeFrame_defined {w : FrameWord} (h : (frameAddr w).toNat ∈ frameCodes) :
    ∃ i, decodeFrame w = .ok i ∧ rowOf i = (.frame16, frameAddr w) := by
  unfold decodeFrame
  split
  case h_15 => simp_all [frameCodes]
  all_goals
    rename_i ha
    exact ⟨_, rfl, by rw [(BitVec.toNat_eq_nat.mp ha).2]; rfl⟩

/-- A frame word with any other code decodes to nothing (R105). -/
theorem decodeFrame_undefined {w : FrameWord} (h : (frameAddr w).toNat ∉ frameCodes) :
    decodeFrame w = .error (.undefinedFrame (frameAddr w)) := by
  unfold decodeFrame
  split
  case h_15 => rfl
  all_goals
    rename_i ha
    exact absurd (by rw [ha]; decide) h

/-- Settles O3: the fields of a word, and the decoder on each side of the list of codes. -/
theorem framesMatchOnTheAddressByte : Obligations.FramesMatchOnTheAddressByte := by
  unfold Obligations.FramesMatchOnTheAddressByte
  exact fun w => ⟨frame_toNat w, decodeFrame_defined, decodeFrame_undefined⟩

/-! ### Decoding an encoding -/

/-- Settles O1: the row of an instruction is found again by its code; wide operands, booleans, alignments and texts are
read back by their own inverses. -/
theorem decodeOfEncode : Obligations.DecodeOfEncode := by
  unfold Obligations.DecodeOfEncode
  intro i hw
  cases i with
  | noop d | digit0 d | digit1 d | digit2 d | digit3 d | digit4 d | digit5 d | digit6 d | digit7 d =>
    simp [encode, decode, decodeFrame]
  | decodeMode d | intensity d | scanLimit d | shutdown d | displayTest d => simp [encode, decode, decodeFrame]
  | resetSw | beginSession | endSession | writeFrame | getCommDelay | initialise => rfl
  | clear | setSegments | setBrightness | endOperations => rfl
  | resetHw kHz k => simp [encode, decode, decodeCommand, encodeInt32]
  | setCommDelay us => simp [encode, decode, decodeCommand, encodeDelay]
  | setShutdown on | setDisplayTest on | displayChar k c on => simp [encode, decode, decodeCommand, Except.map]
  | displayTextAligned text al =>
    have split := splitText_append text [encodeAlignment al] hw
    simp [encode, decode, decodeCommand, split, Except.map]
  | displayText text =>
    have split := splitText_append text [] hw
    simp [encode, decode, decodeCommand, split]
  | displayInteger v al | displayTwoFields u v al =>
    simp [encode, decode, decodeCommand, encodeInt32, Except.map]

/-! ### Encoding what was decoded -/

theorem encodeInt32_int32OfBytes (b3 b2 b1 b0 : Byte) : encodeInt32 (int32OfBytes b3 b2 b1 b0) = [b3, b2, b1, b0] := by
  simp [encodeInt32, bytes_int32OfBytes]

theorem encodeDelay_wordOfBytes (b1 b0 : Byte) : encodeDelay (wordOfBytes b1 b0) = [b1, b0] := by
  simp [encodeDelay, bytes_wordOfBytes]

/-- A boolean operand that was read is its byte (R104). -/
theorem map_decodeBool_ok {f : Bool → Instr} {b : Byte} {i : Instr} (h : (decodeBool b).map f = .ok i) :
    ∃ on, b = encodeBool on ∧ i = f on := by
  cases hb : decodeBool b with
  | error r => exact nomatch hb ▸ h
  | ok on =>
    rw [hb] at h
    exact ⟨on, decodeBool_ok hb, (Except.ok.inj h).symm⟩

/-- An alignment operand that was read is its byte (R104). -/
theorem map_decodeAlignment_ok {f : TextAlignment → Instr} {b : Byte} {i : Instr}
    (h : (decodeAlignment b).map f = .ok i) : ∃ al, b = encodeAlignment al ∧ i = f al := by
  cases hb : decodeAlignment b with
  | error r => exact nomatch hb ▸ h
  | ok al =>
    rw [hb] at h
    exact ⟨al, decodeAlignment_ok hb, (Except.ok.inj h).symm⟩

/-- What command bytes decode to is encoded as those bytes (R102, R104). -/
theorem encode_of_decodeCommand {bytes : List Byte} {i : Instr} :
    decodeCommand bytes = .ok i → encode i = .cmd bytes ∧ i.wellFormed = true := by
  fun_cases decodeCommand bytes
  -- no byte, operands that do not fit their row, a code of no row
  case case1 | case3 | case5 | case7 | case9 | case11 | case13 | case15 | case17 | case19 => exact fun h => nomatch h
  case case21 | case23 | case25 | case27 | case29 | case31 | case33 | case35 | case37 => exact fun h => nomatch h
  case case39 | case40 => exact fun h => nomatch h
  -- the rows of R104: the code is the row's
  all_goals
    intro h
    obtain rfl := (BitVec.toNat_eq_nat.mp ‹BitVec.toNat _ = _›).2
  case case2 | case6 | case8 | case10 | case14 | case16 | case18 | case20 | case22 | case28 =>
    obtain rfl := Except.ok.inj h
    exact ⟨rfl, rfl⟩
  case case4 k3 k2 k1 k0 _ _ =>
    obtain rfl := Except.ok.inj h
    simp [encode, encodeInt32_int32OfBytes, Instr.wellFormed]
  case case12 u1 u0 _ =>
    obtain rfl := Except.ok.inj h
    simp [encode, encodeDelay_wordOfBytes, Instr.wellFormed]
  case case24 | case26 | case30 =>
    obtain ⟨on, rfl, rfl⟩ := map_decodeBool_ok h
    exact ⟨rfl, rfl⟩
  case case32 text _ hsplit _ =>
    obtain ⟨al, rfl, rfl⟩ := map_decodeAlignment_ok h
    obtain ⟨rfl, htext⟩ := splitText_some _ _ _ hsplit
    exact ⟨rfl, htext⟩
  case case34 text hsplit _ =>
    obtain rfl := Except.ok.inj h
    obtain ⟨rfl, htext⟩ := splitText_some _ _ _ hsplit
    exact ⟨rfl, htext⟩
  case case36 | case38 =>
    obtain ⟨al, rfl, rfl⟩ := map_decodeAlignment_ok h
    simp [encode, encodeInt32_int32OfBytes, Instr.wellFormed]

/-- Settles O2: each format's decoder answers only what the encoder gives back. -/
theorem encodeOfDecode : Obligations.EncodeOfDecode := by
  unfold Obligations.EncodeOfDecode
  intro e i h
  cases e with
  | frame16 w => exact encode_of_decodeFrame h
  | cmd bytes => exact encode_of_decodeCommand h

/-- Settles O4: the decoder computes on each of the seven words. -/
theorem sampleWordsDecode : Obligations.SampleWordsDecode := by
  unfold Obligations.SampleWordsDecode
  exact ⟨rfl, rfl, rfl, rfl, rfl, rfl, rfl⟩

/-! ### What does not decode -/

/-- A code that is not in R104 is rejected before its operands are read (R106). -/
theorem decodeCommand_unknown {code : Byte} (ops : List Byte) (h : code.toNat ∉ commandCodes) :
    decodeCommand (code :: ops) = .error (.unknownCommand code) := by
  simp only [decodeCommand]
  split
  case h_20 => rfl
  all_goals
    rename_i hc
    exact absurd (by rw [hc]; decide) h

/-- An alignment code above 2 is rejected (R106). -/
theorem decodeAlignment_above {al : Byte} (h : 2 < al.toNat) : decodeAlignment al = .error (.badAlignment al) := by
  have above (n : Nat) (hn : n ≤ 2) : al ≠ BitVec.ofNat 8 n := by
    rintro rfl
    simp at h
    omega
  rw [decodeAlignment, if_neg (above 0 (by omega)), if_neg (above 1 (by omega)), if_neg (above 2 (by omega))]

/-- What does not decode is refused by the reason's name, whatever the block's state (log 23). -/
theorem step_of_decode_error {s : State} {e : Encoded} {rest : List Input} {r : DecodeReject}
    (hp : s.pending = .present e :: rest) (hd : decode e = .error r) : step s = .refused (refusalOfReject r) := by
  simp [step, hp, hd]

/-- Settles O5: the code, or the alignment where the other operands fit, is rejected by the decoder. -/
theorem unknownCommandsRefused : Obligations.UnknownCommandsRefused := by
  unfold Obligations.UnknownCommandsRefused
  refine ⟨fun s rest code ops hp hc => step_of_decode_error hp (decodeCommand_unknown ops hc), ?_, ?_, ?_⟩
  · intro s rest text al hp htext hal
    refine step_of_decode_error (r := .badAlignment al) hp ?_
    simp [decode, decodeCommand, splitText_append text [al] htext, decodeAlignment_above hal, Except.map]
  · intro s rest v al hp hal
    refine step_of_decode_error (r := .badAlignment al) hp ?_
    simp [decode, decodeCommand, encodeInt32, decodeAlignment_above hal, Except.map]
  · intro s rest u l al hp hal
    refine step_of_decode_error (r := .badAlignment al) hp ?_
    simp [decode, decodeCommand, encodeInt32, decodeAlignment_above hal, Except.map]

end Sys2Proof
end

section
/-! Commands in Active and refusals: the register writes (O28, O30, O31, O32, O34), what is refused (O14, O26, O29,
O48), and the text command that does nothing (O39). -/

namespace Sys2Proof.Machine

open Sys2Proof.Safety

/-! ### Refusals -/

/-- Settles O48: a session-bound command is its body, admitted in its session alone. -/
theorem wrongSessionRefused : Obligations.WrongSessionRefused := by
  unfold Obligations.WrongSessionRefused
  intro s i need hi hb hr hs
  obtain ⟨body, hx⟩ := exec_eq_whenAdmitted hi
  rw [hx, whenAdmitted_wrongSession hb hr hs]

/-- A micro-operation is not run where no command is in progress (R106). -/
theorem microAdmission_host {s : State} (need : Session) (hb : s.busy = false) :
    microAdmission need s = some .internalOnly := if_pos hb

/-- Settles O14: neither micro-operation is admitted from the host. -/
theorem hostMicroOperationsRefused : Obligations.HostMicroOperationsRefused := by
  unfold Obligations.HostMicroOperationsRefused
  intro s hb
  constructor
  · rw [exec, execBeginSession, microAdmission_host _ hb]
  · rw [exec, execEndSession, microAdmission_host _ hb]

theorem digitCountLegal_iff (n : Byte) : digitCountLegal n = true ↔ 1 ≤ n.toNat ∧ n.toNat ≤ 8 := decide_eq_true_iff

theorem decodeModeLegal_iff (m : Byte) : decodeModeLegal m = true ↔ m = Config.decodeNone ∨ m = Config.decodeCodeB :=
  decide_eq_true_iff

theorem digitIndexLegal_iff (k : Byte) : digitIndexLegal k = true ↔ k.toNat < 8 := decide_eq_true_iff

/-- Settles O26: the digit count is asked first, then the mode. -/
theorem badInitializeOperandsRefused : Obligations.BadInitializeOperandsRefused := by
  unfold Obligations.BadInitializeOperandsRefused
  constructor
  · intro s n m hs hn
    have hbad : digitCountLegal n = false := by
      rw [← Bool.not_eq_true, digitCountLegal_iff]
      omega
    rw [exec, execInitialise, whenAdmitted_ready hs, if_pos hbad]
  · intro s n m hs h1 h8 hnone hcode
    have hlegal : ¬ digitCountLegal n = false := by simp [(digitCountLegal_iff n).mpr ⟨h1, h8⟩]
    have hbad : decodeModeLegal m = false := by
      rw [← Bool.not_eq_true, decodeModeLegal_iff]
      exact not_or.mpr ⟨hnone, hcode⟩
    rw [exec, execInitialise, whenAdmitted_ready hs, if_neg hlegal, if_pos hbad]

/-- Settles O29: both commands ask the digit index before their frame. -/
theorem digitIndexAboveSevenRefused : Obligations.DigitIndexAboveSevenRefused := by
  unfold Obligations.DigitIndexAboveSevenRefused
  intro s k b dp hs hk
  have hbad : ¬ digitIndexLegal k = true := by
    rw [digitIndexLegal_iff]
    omega
  constructor
  · rw [exec, execSetSegments, whenAdmitted_ready hs, if_neg hbad]
  · rw [exec, execDisplayChar, whenAdmitted_ready hs, if_neg hbad]

/-! ### A command that does nothing -/

/-- Where the block was not busy, being busy for a while leaves no trace (R31). -/
theorem setBusy_restore {s : State} (hb : s.busy = false) : setBusy false (setBusy true s) = s := by
  cases s
  cases hb
  rfl

/-- Settles O39: the body completes at once. -/
theorem rightZerosTextDoesNothing : Obligations.RightZerosTextDoesNothing := by
  unfold Obligations.RightZerosTextDoesNothing
  intro s text hs
  simp only [exec, execDisplayTextAligned, whenAdmitted_ready hs, complete, setBusy_restore hs.1]

/-! ### One frame for a register of the chip -/

/-- One frame for a register stores its byte there and leaves every other register (R38). -/
theorem sent_register {a : Byte} (d : Byte) (s : State) (h : a.toNat ∈ storableCodes) :
    memRead (sent [⟨a, d⟩] s).sink a.toNat = some d ∧ SinkSameOutside [a.toNat] s (sent [⟨a, d⟩] s) :=
  ⟨(writeFrame_read d (setBusy true s) h a.toNat).trans (if_pos rfl),
    sent_outside (fs := [⟨a, d⟩]) s (List.forall_mem_singleton.mpr h)⟩

/-- What a command that writes one digit register leaves: its frame delivered, no shadow written, the byte in register
`k + 1` (R95). -/
theorem sent_digit {k : Byte} (hk : k.toNat ≤ 7) (v : Byte) (s : State) :
    Delivered s [⟨BitVec.ofNat 8 (k.toNat + 1), v⟩] (sent [⟨digitRegister k, v⟩] s) ∧
      SameShadows s (sent [⟨digitRegister k, v⟩] s) ∧
      memRead (sent [⟨digitRegister k, v⟩] s).sink (k.toNat + 1) = some v ∧
      SinkSameOutside [k.toNat + 1] s (sent [⟨digitRegister k, v⟩] s) := by
  have haddr := digitRegister_toNat k hk
  have hchip := sent_register v s (a := digitRegister k) (haddr ▸ digit_storable (by omega) (by omega))
  rw [haddr] at hchip
  exact ⟨digitRegister_eq k ▸ sent_delivered _ s, sent_sameShadows _ s, hchip⟩

/-- Settles O28: SET_SEGMENTS sends its one frame. -/
theorem setSegmentsWritesTheRawByte : Obligations.SetSegmentsWritesTheRawByte := by
  unfold Obligations.SetSegmentsWritesTheRawByte
  intro s k b hs hk
  refine ⟨_, ?_, sent_digit hk b s⟩
  rw [exec, execSetSegments, whenAdmitted_ready hs, if_pos ((digitIndexLegal_iff k).mpr (by omega))]
  rfl

/-- The bits of a glyph: the font's in its range, so bit 7 is clear (R101, R181). -/
theorem glyph_bit (c : Byte) {j : Nat} (hj : j < 8) :
    (glyph c).getLsbD j = (decide (0x20 ≤ c.toNat ∧ c.toNat ≤ 0x7A) && (Config.font c).getLsbD j) := by
  unfold glyph
  split
  case isTrue h => simp [h, hj]
  case isFalse h => simp [h]

/-- The bits of a segment byte: bit 7 is the decimal point, the others are the glyph's (R100). -/
theorem segmentByte_bit (c : Byte) (dp : Bool) {j : Nat} (hj : j < 8) :
    (segmentByte c dp).getLsbD j = if j = 7 then dp else (glyph c).getLsbD j := by
  have point : ∀ (dp : Bool) (j : Nat), j < 8 →
      (if dp then 0x80#8 else 0x00#8).getLsbD j = (decide (j = 7) && dp) := by decide
  rw [segmentByte, BitVec.getLsbD_or, point dp j hj]
  by_cases h7 : j = 7
  · simp [h7, glyph_bit c (show 7 < 8 by omega), -BitVec.getLsbD_eq_getElem]
  · simp [h7]

/-- A byte with the glyph's bits and the decimal point in bit 7 is the segment byte (R100, R101). -/
theorem segmentByte_unique {c v : Byte} {dp : Bool}
    (hlow : ∀ j, j < 7 → v.getLsbD j = (decide (0x20 ≤ c.toNat ∧ c.toNat ≤ 0x7A) && (Config.font c).getLsbD j))
    (hpoint : v.getLsbD 7 = dp) : segmentByte c dp = v := by
  apply BitVec.eq_of_getLsbD_eq
  intro j hj
  rw [segmentByte_bit c dp hj]
  by_cases h7 : j = 7
  · rw [if_pos h7, h7, hpoint]
  · rw [if_neg h7, glyph_bit c hj, hlow j (by omega)]

/-- Settles O34: DISPLAY_CHAR sends its one frame, whose data is the segment byte. -/
theorem displayCharWritesTheGlyph : Obligations.DisplayCharWritesTheGlyph := by
  unfold Obligations.DisplayCharWritesTheGlyph
  intro s k c v dp hs hk hlow hpoint
  refine ⟨_, ?_, sent_digit hk v s⟩
  rw [exec, execDisplayChar, whenAdmitted_ready hs, if_pos ((digitIndexLegal_iff k).mpr (by omega)),
    segmentByte_unique hlow hpoint]
  rfl

/-! ### A register write with its shadow -/

/-- The brightness operand is the lesser of the level and 0x0F (R97). -/
theorem brightnessOperand_eq (level : Byte) : brightnessOperand level = BitVec.ofNat 8 (min level.toNat 0x0F) := by
  unfold brightnessOperand
  split
  case isTrue h => simp [Nat.min_eq_left h]
  case isFalse h => rw [Nat.min_eq_right (by omega)]

/-- Settles O30: SET_BRIGHTNESS sends its one frame and stores the frame's byte. -/
theorem setBrightnessClamps : Obligations.SetBrightnessClamps := by
  unfold Obligations.SetBrightnessClamps
  rintro s level v hs rfl
  rw [← brightnessOperand_eq]
  obtain ⟨hn, hm, -, hd, ht⟩ := sent_sameShadows [⟨0x0A#8, brightnessOperand level⟩] s
  refine ⟨storeIntensity (brightnessOperand level) (sent [⟨0x0A#8, brightnessOperand level⟩] s), ?_,
    delivered_withShadows (sent_delivered _ s) _ _ _, rfl, hn, hm, hd, ht, sent_register _ s (a := 0x0A#8) (by decide)⟩
  rw [exec, execSetBrightness, whenAdmitted_ready hs]
  rfl

/-- Settles O31: SET_SHUTDOWN sends its one frame and stores its boolean. -/
theorem setShutdownIsInverted : Obligations.SetShutdownIsInverted := by
  unfold Obligations.SetShutdownIsInverted
  intro s on v hs hon hoff
  obtain rfl : shutdownOperand on = v := by cases on <;> simp [shutdownOperand, *]
  obtain ⟨hn, hm, hi, -, ht⟩ := sent_sameShadows [⟨0x0C#8, shutdownOperand on⟩] s
  refine ⟨storeShutdown on (sent [⟨0x0C#8, shutdownOperand on⟩] s), ?_,
    delivered_withShadows (sent_delivered _ s) _ _ _, rfl, hn, hm, hi, ht, sent_register _ s (a := 0x0C#8) (by decide)⟩
  rw [exec, execSetShutdown, whenAdmitted_ready hs]
  rfl

/-- Settles O32: SET_DISPLAY_TEST sends its one frame and stores its boolean. -/
theorem setDisplayTestIsNotInverted : Obligations.SetDisplayTestIsNotInverted := by
  unfold Obligations.SetDisplayTestIsNotInverted
  intro s on v hs hon hoff
  obtain rfl : displayTestOperand on = v := by cases on <;> simp [displayTestOperand, *]
  obtain ⟨hn, hm, hi, hd, -⟩ := sent_sameShadows [⟨0x0F#8, displayTestOperand on⟩] s
  refine ⟨storeDisplayTest on (sent [⟨0x0F#8, displayTestOperand on⟩] s), ?_,
    delivered_withShadows (sent_delivered _ s) _ _ _, rfl, hn, hm, hi, hd, sent_register _ s (a := 0x0F#8) (by decide)⟩
  rw [exec, execSetDisplayTest, whenAdmitted_ready hs]
  rfl

end Sys2Proof.Machine
end

section
/-! What INITIALIZE leaves outside the chip (O24). -/

namespace Sys2Proof.Machine

open Sys2Proof.Safety

/-- INITIALIZE runs where its operands are legal (R161). -/
theorem exec_initialise_ready {s : State} {n m : Byte} (hs : Ready s .uninitialized) (h1 : 1 ≤ n.toNat)
    (h8 : n.toNat ≤ 8) (hm : m = Config.decodeNone ∨ m = Config.decodeCodeB) :
    exec (.initialise n m) s = .next (setBusy false (initialiseBody n m (setBusy true s))) := by
  have hn : digitCountLegal n = true := (digitCountLegal_iff n).mpr ⟨h1, h8⟩
  have hmode : decodeModeLegal m = true := (decodeModeLegal_iff m).mpr hm
  simp [exec, execInitialise, whenAdmitted_ready hs, hn, hmode, complete]

/-! ### The software path -/

/-- Session begin on the software path does not touch the bus (R132). -/
theorem initialiseBody_spi_software {s : State} {clk cs din : LineId} (n m : Byte)
    (ht : s.transport = .software clk cs din) : (initialiseBody n m s).spi = s.spi := by
  have opening (p : Spi) : spiAfterAll (beginEvents (.software clk cs din) ++ [.delayMillis 50]) p = p := rfl
  rw [initialiseBody_spi, ht, spiAfterAll_append, opening, traceOf_spi]

/-- After a sequence of frames the data line carries bit 0 of the last frame's data (R140). -/
theorem traceOf_lines_din {clk cs din : LineId} (delay : CommDelay) (fs : List Frame) (f : Frame) (ls : Lines)
    (h1 : clk ≠ cs) (h2 : clk ≠ din) (h3 : cs ≠ din) :
    (linesAfterAll (.software clk cs din) (traceOf (.software clk cs din) delay (fs ++ [f])) ls).din.level
      = .driven (Level.ofBit (f.data.getLsbD 0)) := by
  simp [traceOf, linesAfterAll_append, pathEvents, softwareFrame_lines _ _ _ h1 h2 h3, -BitVec.getLsbD_eq_getElem]

/-- INITIALIZE leaves the three lines outputs, the clock low, chip-select deasserted, and the data line low, since its
last frame's data byte is even (R140, R161, R234). -/
theorem initialiseBody_lines_idle {s : State} {clk cs din : LineId} (n m : Byte)
    (ht : s.transport = .software clk cs din) (h1 : clk ≠ cs) (h2 : clk ≠ din) (h3 : cs ≠ din) :
    (initialiseBody n m s).lines
      = ⟨⟨.output, .driven .low⟩, ⟨.output, .driven Config.csActive.other⟩, ⟨.output, .driven .low⟩⟩ := by
  have data : (initialiseBody n m s).lines.din.level = .driven .low := by
    rw [initialiseBody_lines, ht, linesAfterAll_append, initialiseFrames, traceOf_lines_din _ _ _ _ h1 h2 h3]
    rfl
  obtain ⟨clock, select, dir⟩ := initialiseBody_lines_software n m ht h1 h2 h3
  generalize (initialiseBody n m s).lines = ls at clock select dir data
  obtain ⟨_, _, ⟨_, _⟩⟩ := ls
  simp_all

/-! ### The hardware path -/

theorem linesAfterAll_hardware (kHz : Int32Word) (i : Fin 2) (es : List Event) (ls : Lines) :
    linesAfterAll (.hardware kHz i) es ls = ls := by
  induction es with
  | nil => rfl
  | cons e es ih => exact ih

/-- The hardware path has no lines (R34). -/
theorem initialiseBody_lines_hardware {s : State} {kHz : Int32Word} {i : Fin 2} (n m : Byte)
    (ht : s.transport = .hardware kHz i) : (initialiseBody n m s).lines = s.lines := by
  rw [initialiseBody_lines, ht, linesAfterAll_hardware]

/-- INITIALIZE does not use the bit engine on the hardware path (R142). -/
theorem initialiseBody_engine_hardware {s : State} (n m : Byte) (hw : hardwareActive s = true) :
    (initialiseBody n m s).sr = s.sr ∧ (initialiseBody n m s).pos = s.pos := by
  have active {u : State} (hu : u.transport = s.transport) : hardwareActive u = true := by
    rwa [hardwareActive, hu]
  have one (a d : Byte) (u : State) (hu : u.transport = s.transport) := (writeFrame_hardware a d u (active hu)).2
  have many (fs : List Frame) (u : State) (hu : u.transport = s.transport) :=
    (writeFrames_hardware fs u (active hu)).2
  obtain ⟨hpath, hsr, hpos⟩ : (sessionBegin (storeDigitCount n s)).transport = s.transport ∧
      (sessionBegin (storeDigitCount n s)).sr = s.sr ∧ (sessionBegin (storeDigitCount n s)).pos = s.pos :=
    ⟨rfl, rfl, rfl⟩
  constructor
  · simp [initialiseBody, one, many, hpath, hsr]
  · simp [initialiseBody, one, many, hpath, hpos]

/-- Settles O24: the operands are legal, so the body ran; what it leaves is read off field by field, and on each path
the lines and the bus are what the emitted events leave. -/
theorem initializeRunsTheSequence : Obligations.InitializeRunsTheSequence := by
  unfold Obligations.InitializeRunsTheSequence
  intro s n m hs h1 h8 hm
  obtain ⟨hcount, hmode, hlevel, hdown, htest⟩ := initialiseBody_shadows n m (setBusy true s)
  obtain ⟨hready, hpending, hreturns⟩ := initialiseBody_host n m (setBusy true s)
  refine ⟨_, initialiseFrames n m, exec_initialise_ready hs h1 h8 hm, ?_, initialiseBody_frames n m _, ?_, hcount,
    hmode, hlevel, hdown, htest, initialiseBody_session n m _, rfl,
    ⟨initialiseBody_transport n m _, hready, hpending⟩, initialiseBody_commDelay n m _, hreturns, ?_, ?_⟩
  · rw [← scanLimitOperand_eq h1]
    rfl
  · simp [initialiseBody_events]
  · intro clk cs din ht d1 d2 d3
    exact ⟨initialiseBody_lines_idle (s := setBusy true s) n m ht d1 d2 d3,
      initialiseBody_spi_software (s := setBusy true s) n m ht⟩
  · intro kHz i ht
    have hw : hardwareActive (setBusy true s) = true := by simp [hardwareActive, ht]
    exact ⟨initialiseBody_spi_hardware (s := setBusy true s) n m ht,
      initialiseBody_lines_hardware (s := setBusy true s) n m ht, initialiseBody_engine_hardware n m hw⟩

end Sys2Proof.Machine
end

section
/-! Construction refused (O10), the session micro-operations and END_OPERATIONS (O11, O13, O33), the software frame
(O16, O17) and the timing knob (O22, O23). -/

namespace Sys2Proof.Machine

open Sys2Proof.Safety

/-! ### Constructions -/

theorem linesLegal_iff (clk cs din : LineId) : linesLegal clk cs din = true ↔ clk ≠ cs ∧ clk ≠ din ∧ cs ≠ din :=
  decide_eq_true_iff

/-- Settles O10: equal lines are not legal, and an index above 1 selects no line. -/
theorem badConstructionsRefused : Obligations.BadConstructionsRefused := by
  unfold Obligations.BadConstructionsRefused
  constructor
  · intro s clk cs din heq
    have hbad : ¬ linesLegal clk cs din = true := by
      rw [linesLegal_iff]
      tauto
    rw [exec, execResetSw, if_neg hbad]
  · intro s kHz i hi
    have hnone : csLineOf i = none := dif_neg (by omega)
    rw [exec, execResetHw, hnone]

/-! ### Session begin and end -/

theorem exec_beginSession_inCommand {s : State} (hs : InCommand s .uninitialized) :
    exec .beginSession s = .next (sessionBegin s) := by
  rw [exec, execBeginSession, (microAdmission_none_iff _ s).mpr hs]

theorem exec_endSession_inCommand {s : State} (hs : InCommand s .active) :
    exec .endSession s = .next (sessionEnd s) := by
  rw [exec, execEndSession, (microAdmission_none_iff _ s).mpr hs]

/-- Session end drives the three lines low and leaves their directions (R134). -/
theorem endEvents_lines {clk cs din : LineId} (h1 : clk ≠ cs) (h2 : clk ≠ din) (h3 : cs ≠ din) (ls : Lines) :
    linesAfterAll (.software clk cs din) (endEvents (.software clk cs din)) ls
      = ⟨⟨ls.clk.dir, .driven .low⟩, ⟨ls.cs.dir, .driven .low⟩, ⟨ls.din.dir, .driven .low⟩⟩ := by
  simp [endEvents, linesAfterAll, linesAfter, lineAfter, h1, h2, h3, h1.symm, h2.symm, h3.symm]

/-- END_SESSION's whole effect on the software path (R134). -/
theorem sessionEnd_software {s : State} {clk cs din : LineId} (ht : s.transport = .software clk cs din)
    (h1 : clk ≠ cs) (h2 : clk ≠ din) (h3 : cs ≠ din) :
    sessionEnd s
      = { s with
          events := s.events ++ [.setLine clk .low, .setLine cs .low, .setLine din .low]
          lines := ⟨⟨s.lines.clk.dir, .driven .low⟩, ⟨s.lines.cs.dir, .driven .low⟩,
            ⟨s.lines.din.dir, .driven .low⟩⟩ } := by
  rw [sessionEnd, emitAll, ht, endEvents_lines h1 h2 h3]
  rfl

/-- END_SESSION's whole effect on the hardware path (R135). -/
theorem sessionEnd_hardware {s : State} {kHz : Int32Word} {i : Fin 2} (ht : s.transport = .hardware kHz i) :
    sessionEnd s = { s with events := s.events ++ [.spiClose], spi := { s.spi with isOpen := false } } := by
  rw [sessionEnd, emitAll, ht]
  rfl

/-- Settles O11: the lines take the six events' effect. -/
theorem beginSessionOnTheSoftwarePath : Obligations.BeginSessionOnTheSoftwarePath := by
  unfold Obligations.BeginSessionOnTheSoftwarePath
  intro s clk cs din hs ht h1 h2 h3
  rw [exec_beginSession_inCommand hs, sessionBegin, emitAll, ht, beginEvents_lines h1 h2 h3]
  rfl

/-- Settles O13: inside a command END_SESSION is admitted, and its effect is that of its path. -/
theorem endSessionOnBothPaths : Obligations.EndSessionOnBothPaths := by
  unfold Obligations.EndSessionOnBothPaths
  constructor
  · intro s clk cs din hs ht h1 h2 h3
    rw [exec_endSession_inCommand hs, sessionEnd_software ht h1 h2 h3]
  · intro s kHz i hs ht
    rw [exec_endSession_inCommand hs, sessionEnd_hardware ht]

/-- END_OPERATIONS is END_SESSION and the session's end: `busy` is as before once it completes (R31, R167). -/
theorem exec_endOperations_ready {s : State} (hs : Ready s .active) :
    exec .endOperations s = .next (setSession .ended (sessionEnd s)) := by
  have hbusy : (setSession .ended (sessionEnd s)).busy = false := hs.1
  rw [exec, execEndOperations, whenAdmitted_ready hs, ← setBusy_restore hbusy]
  rfl

/-- Settles O33: END_OPERATIONS is END_SESSION's effect and the session state. -/
theorem endOperationsEndsTheSession : Obligations.EndOperationsEndsTheSession := by
  unfold Obligations.EndOperationsEndsTheSession
  constructor
  · intro s clk cs din hs ht h1 h2 h3
    rw [exec_endOperations_ready hs, sessionEnd_software ht h1 h2 h3]
    rfl
  · intro s kHz i hs ht
    rw [exec_endOperations_ready hs, sessionEnd_hardware ht]
    rfl

/-! ### The software frame -/

/-- A byte is eight bit cells of five events (R138, R139). -/
theorem shiftByte_length (clk din : LineId) (delay : Nat) (v : Byte) : (shiftByte clk din delay v).length = 40 := rfl

/-- Settles O16: WRITE_FRAME appends one frame's waveform. -/
theorem softwareFrameIsItsWaveform : Obligations.SoftwareFrameIsItsWaveform := by
  unfold Obligations.SoftwareFrameIsItsWaveform
  intro s a d clk cs din hs ht
  exact ⟨_, exec_writeFrame_ready hs a d, sent_events_software ht ⟨a, d⟩, shiftByte_length _ _ _ a,
    shiftByte_length _ _ _ d⟩

/-- On the software path WRITE_FRAME's lines are what one frame's waveform leaves (R34, R140). -/
theorem sent_lines_software {s : State} {clk cs din : LineId} (ht : s.transport = .software clk cs din) (f : Frame) :
    (sent [f] s).lines
      = linesAfterAll (.software clk cs din) (softwareFrame clk cs din s.commDelay.toNat f) s.lines := by
  simp [(sent_delivered [f] s).lines, traceOf, pathEvents, ht]

/-- Settles O17: the lines are what the waveform leaves. -/
theorem linesAfterASoftwareFrame : Obligations.LinesAfterASoftwareFrame := by
  unfold Obligations.LinesAfterASoftwareFrame
  intro s a d clk cs din hs ht h1 h2 h3
  exact ⟨_, exec_writeFrame_ready hs a d,
    (sent_lines_software ht ⟨a, d⟩).trans (softwareFrame_lines _ ⟨a, d⟩ s.lines h1 h2 h3)⟩

/-! ### The timing knob -/

/-- A WRITE_FRAME that completes was accepted and sent its one frame (R136). -/
theorem exec_writeFrame_next {a d : Byte} {s t : State} (hx : exec (.writeFrame a d) s = .next t) :
    t = sent [⟨a, d⟩] s := by
  rw [exec, execWriteFrame] at hx
  obtain ⟨-, hb⟩ := whenAdmitted_next hx
  exact complete_next hb

/-- Settles O22: the write is `storeCommDelay`, and the next frame's waveform is read off the state it leaves. -/
theorem setCommDelayWritesTheDelay : Obligations.SetCommDelayWritesTheDelay := by
  unfold Obligations.SetCommDelayWritesTheDelay
  intro s us hb
  constructor
  · simp [exec, execSetCommDelay, hb, storeCommDelay]
  · intro a d clk cs din u ht hx
    rw [exec_writeFrame_next hx]
    exact sent_events_software (s := { s with commDelay := us }) ht ⟨a, d⟩

/-- GET_COMM_DELAY returns the delay and writes nothing else (R145). -/
theorem exec_getCommDelay_idle {s : State} (hb : s.busy = false) :
    exec .getCommDelay s = .next (returnToHost s.commDelay s) := by
  simp [exec, execGetCommDelay, hb]

/-- Of everything an instruction can do, only GET_COMM_DELAY adds to the returned values and only a construction drops
them (R145). -/
theorem exec_returns {i : Instr} {s t : State} (hx : exec i s = .next t) (hi : i ≠ .getCommDelay)
    (hc : isConstructor i = false) : t.returns = s.returns := by
  cases exec_effect hx with
  | received a d _ _ h => simp [h]
  | constructed p hp => exact nomatch hc.symm.trans hp
  | began _ _ h => simp [h, sessionBegin]
  | closed _ _ h => simp [h, sessionEnd]
  | delayed us _ _ h => simp [h]
  | delayRead he => exact absurd he hi
  | initialised n m _ _ _ _ h => simp [h, initialiseBody_host]
  | wrote fs _ _ _ h => simp [h]
  | brightened v _ _ _ h => simp [h]
  | shut on _ _ h => simp [h]
  | tested on _ _ h => simp [h]
  | finished _ _ h => simp [h, sessionEnd]

/-- Settles O23: the delay register, which is 0 after reset, is what GET_COMM_DELAY alone returns. -/
theorem getCommDelayReturnsTheDelay : Obligations.GetCommDelayReturnsTheDelay := by
  unfold Obligations.GetCommDelayReturnsTheDelay
  exact ⟨fun s hb => exec_getCommDelay_idle hb, fun i s t => exec_returns,
    ⟨_, exec_getCommDelay_idle (s := State.reset) rfl, rfl⟩⟩

end Sys2Proof.Machine
end

section
/-! CLEAR (O27). -/

namespace Sys2Proof.Machine

open Sys2Proof.Safety

/-- CLEAR sends the frames that clear the digits of the digit count (R162). -/
theorem exec_clear_ready {s : State} (hs : Ready s .active) :
    exec .clear s = .next (sent (clearFrames s.digitCount.val.toNat) s) := by
  rw [exec, execClear, whenAdmitted_ready hs]
  rfl

/-- Settles O27: CLEAR sends `clearFrames`, and every register of the chip after them is known. -/
theorem clearWritesEveryDigit : Obligations.ClearWritesEveryDigit := by
  unfold Obligations.ClearWritesEveryDigit
  intro s hs hn
  have chip := clearFrames_read s.digitCount.val.toNat hn (setBusy true s)
  refine ⟨_, exec_clear_ready hs, sent_delivered _ s, sent_sameShadows _ s, fun r h1 hr => ?_, fun r hr => ?_⟩
  · exact (chip r).trans (if_pos ⟨h1, hr⟩)
  · exact (chip r).trans (if_neg hr)

end Sys2Proof.Machine
end

section
/-! Texts and numbers: where items go and what is refused (O36, O38, O44), what a text's items are (O40), and the padding
of a number (O41). -/

namespace Sys2Proof.Machine

open Sys2Proof.Safety

/-! ### Aligned texts and fields -/

/-- Settles O36: on all digits the aligned placement is the unaligned one, so both commands admit one body. -/
theorem leftAlignedTextIsUnalignedText : Obligations.LeftAlignedTextIsUnalignedText := by
  unfold Obligations.LeftAlignedTextIsUnalignedText
  intro s text
  simp only [exec, execDisplayTextAligned, execDisplayText, alignedFrames_left]
  rfl

/-- Settles O38: more items than the effective length leave an index below 0, and the placement has no frames. -/
theorem negativeDigitRefused : Obligations.NegativeDigitRefused := by
  unfold Obligations.NegativeDigitRefused
  rintro s text n hs rfl hover
  have hnone : alignedFrames (effLen text (digitsOf s)) (digitsOf s) 0 (textItems text) = none :=
    alignedFrames_negative _ _ 0 _ (Nat.zero_le _) (by rw [Nat.zero_add]; exact hover)
  have same : digitsOf (setBusy true s) = digitsOf s := rfl
  simp only [exec, execDisplayTextAligned, whenAdmitted_ready hs, same, hnone, renderPlaced]

/-- Settles O44: half of one digit is no digit. -/
theorem zeroFieldWidthRefused : Obligations.ZeroFieldWidthRefused := by
  unfold Obligations.ZeroFieldWidthRefused
  intro s u l al hs hone
  have hhalf : digitsOf (setBusy true s) / 2 = 0 := by rw [digitsOf, setBusy_digitCount, hone]
  rw [exec, execDisplayTwoFields, whenAdmitted_ready hs, if_pos hhalf]

/-! ### The items of a text -/

/-- A dot after a character that is no dot is absorbed (R183). -/
theorem textItems_absorbs {c : Byte} (hc : c ≠ charDot) (rest : List Byte) :
    textItems (c :: charDot :: rest) = ⟨c, true⟩ :: textItems rest := by
  rw [textItems, if_pos ⟨hc, rfl⟩]

/-- A dot, and a character that no dot follows, is an item without a decimal point (R183). -/
theorem textItems_plain {c : Byte} {rest : List Byte} (h : c ≠ charDot → rest.head? ≠ some charDot) :
    textItems (c :: rest) = ⟨c, false⟩ :: textItems rest := by
  cases rest with
  | nil => rfl
  | cons d rest =>
    have hplain : ¬ (c ≠ charDot ∧ d = charDot) := fun ⟨hc, hd⟩ => h hc (congrArg some hd)
    rw [textItems, if_neg hplain]

/-- The two ways a text goes on: an absorbed dot, or an item without a decimal point (R183). -/
theorem textItems_induction {P : List Byte → Prop} (nil : P [])
    (absorbed : ∀ c rest, c ≠ charDot → P rest → P (c :: charDot :: rest))
    (plain : ∀ c rest, (c ≠ charDot → rest.head? ≠ some charDot) → P rest → P (c :: rest)) (t : List Byte) : P t := by
  induction t using textItems.induct with
  | case1 => exact nil
  | case2 c => exact plain c [] (fun _ => nofun) nil
  | case3 c d rest h ih =>
    obtain ⟨hc, rfl⟩ := h
    exact absorbed c rest hc ih
  | case4 c d rest h ih => exact plain c (d :: rest) (fun hc hd => h ⟨hc, Option.some.inj hd⟩) ih

/-- The first item's character is the text's first. -/
theorem textItems_head (t : List Byte) : (textItems t).head?.map Item.char = t.head? := by
  induction t using textItems_induction with
  | nil => rfl
  | absorbed c rest hc _ => rw [textItems_absorbs hc]; rfl
  | plain c rest h _ => rw [textItems_plain h]; rfl

/-- Read back in order, the items spell the text. -/
theorem textItems_spell (t : List Byte) : (textItems t).flatMap itemChars = t := by
  induction t using textItems_induction with
  | nil => rfl
  | absorbed c rest hc ih => simp [textItems_absorbs hc, itemChars, ih]
  | plain c rest h ih => simp [textItems_plain h, itemChars, ih]

/-- No dot carries a decimal point. -/
theorem textItems_dp_char (t : List Byte) : ∀ it ∈ textItems t, it.dp = true → it.char ≠ charDot := by
  induction t using textItems_induction with
  | nil => exact nofun
  | absorbed c rest hc ih =>
    rw [textItems_absorbs hc, List.forall_mem_cons]
    exact ⟨fun _ => hc, ih⟩
  | plain c rest h ih =>
    rw [textItems_plain h, List.forall_mem_cons]
    exact ⟨nofun, ih⟩

/-- `next` is not a dot that `it` had to absorb (R183). -/
def NotAbsorbable (it next : Item) : Prop := it.dp = false → it.char ≠ charDot → next.char ≠ charDot

/-- No item is a dot that the item before it had to absorb. -/
theorem textItems_chain (t : List Byte) : (textItems t).IsChain NotAbsorbable := by
  induction t using textItems_induction with
  | nil => exact .nil
  | absorbed c rest hc ih =>
    rw [textItems_absorbs hc, List.isChain_cons]
    exact ⟨fun _ _ => nofun, ih⟩
  | plain c rest h ih =>
    rw [textItems_plain h, List.isChain_cons]
    refine ⟨fun next hnext _ hc hdot => h hc ?_, ih⟩
    rw [← textItems_head, Option.mem_def.mp hnext, Option.map_some, hdot]

/-- Settles O40, by induction over the two ways a text goes on. -/
theorem itemsSpellTheText : Obligations.ItemsSpellTheText := by
  unfold Obligations.ItemsSpellTheText
  refine fun t => ⟨textItems_spell t, textItems_dp_char t, fun j it next hit hnext => ?_⟩
  obtain ⟨hj, rfl⟩ := List.getElem?_eq_some_iff.mp hnext
  obtain ⟨_, rfl⟩ := List.getElem?_eq_some_iff.mp hit
  exact List.isChain_iff_getElem.mp (textItems_chain t) j hj

/-! ### Numbers -/

/-- The sign is determined by the two cases of R187. -/
theorem signChars_unique {v : Int32Word} {sign : List Byte} (hneg : v.toInt < 0 → sign = [charMinus])
    (hpos : 0 ≤ v.toInt → sign = []) : sign = signChars v := by
  unfold signChars
  split
  case isTrue h => exact hneg h
  case isFalse h => exact hpos (Int.not_lt.mp h)

/-- Settles O41: the numeral is `magnitudeDigits`, and `formatInt` pads it as R187 writes it. -/
theorem formatIntPadsTheNumeral : Obligations.FormatIntPadsTheNumeral := by
  unfold Obligations.FormatIntPadsTheNumeral
  intro v w sign hneg hpos
  obtain rfl := signChars_unique hneg hpos
  exact ⟨magnitudeDigits v, magnitudeDigits_numeral v, rfl, rfl, rfl, formatInt_length v w⟩

end Sys2Proof.Machine
end

section
/-! The bus: a step that waits or takes the bus-init result (O7), and what is refused while the bus is not ready
(O49). -/

namespace Sys2Proof.Machine

open Sys2Proof.Safety

/-- A step on the encoding of a well-formed instruction executes it. -/
theorem step_of_encode {s : State} {i : Instr} {rest : List Input} (hw : i.wellFormed = true)
    (hp : s.pending = .present (encode i) :: rest) : step s = exec i { s with pending := rest } :=
  stepRunsDecodedInstruction s (encode i) rest i hp (decodeOfEncode i hw)

/-- With nothing presented the block waits (R31). -/
theorem step_of_nothing {s : State} (hp : s.pending = []) : step s = .next s := by
  rw [step, hp]

/-- A bus-init result is taken into `busReady` (R201, R207). -/
theorem step_of_busInit {s : State} {ready : Bool} {rest : List Input} (hp : s.pending = .busInit ready :: rest) :
    step s = .next { s with pending := rest, busReady := ready } := by
  rw [step, hp]
  rfl

/-- An INITIALIZE with legal operands, presented to a block that is ready for it, makes the session Active (R161). -/
theorem step_of_initialise {s : State} {n m : Byte} {rest : List Input} (hs : Ready s .uninitialized)
    (hn : digitCountOk n = true) (hm : decodeModeOk m = true)
    (hp : s.pending = .present (encode (.initialise n m)) :: rest) : ∃ t, step s = .next t ∧ t.session = .active := by
  obtain ⟨h1, h8⟩ := of_decide_eq_true hn
  have run := exec_initialise_ready (s := { s with pending := rest }) hs h1 h8 (of_decide_eq_true hm)
  exact ⟨_, (step_of_encode rfl hp).trans run, initialiseBody_session n m _⟩

/-- Settles O7: the bus-init result leaves a block that is ready for the INITIALIZE presented next. -/
theorem stepWaitsOrTakesTheBusResult : Obligations.StepWaitsOrTakesTheBusResult := by
  unfold Obligations.StepWaitsOrTakesTheBusResult
  refine ⟨fun s => step_of_nothing, fun s ready rest => step_of_busInit, fun s rest n m hp hb hs hn hm => ?_⟩
  obtain ⟨t, run, active⟩ := step_of_initialise
    (s := { s with pending := .present (encode (.initialise n m)) :: rest, busReady := true }) ⟨hb, rfl, hs⟩ hn hm rfl
  exact ⟨_, t, step_of_busInit hp, run, active⟩

/-- Settles O49: a session-bound command is its body, which is not run while the bus is not ready. -/
theorem busNotReadyRefused : Obligations.BusNotReadyRefused := by
  unfold Obligations.BusNotReadyRefused
  intro s i need hi hb hr
  obtain ⟨body, hx⟩ := exec_eq_whenAdmitted hi
  rw [hx, whenAdmitted_busNotReady hb hr]

end Sys2Proof.Machine
end

section
/-! How long a software-path frame lasts (O18). -/

namespace Sys2Proof.Machine

open Sys2Proof.Safety

/-! ### What a list of events costs -/

@[simp] theorem lowerBound_append (es₁ es₂ : List Event) :
    lowerBound (es₁ ++ es₂) = lowerBound es₁ + lowerBound es₂ := by
  simp [lowerBound]

@[simp] theorem microDelays_append (es₁ es₂ : List Event) :
    microDelays (es₁ ++ es₂) = microDelays es₁ + microDelays es₂ := List.countP_append

@[simp] theorem setsOf_append (id : LineId) (es₁ es₂ : List Event) :
    setsOf id (es₁ ++ es₂) = setsOf id es₁ + setsOf id es₂ := List.countP_append

/-- The events cost what `k` chip-select changes and `b` bit cells cost: a bit cell is one data change, two clock
changes and two delays (R138), and the delays alone take time (R250). -/
structure Tally (clk cs din : LineId) (delay k b : Nat) (es : List Event) : Prop where
  duration : lowerBound es = b * 2 * delay
  commDelays : es.count (.delayMicros delay) = b * 2
  delays : microDelays es = b * 2
  selects : setsOf cs es = k
  dataChanges : setsOf din es = b
  clockChanges : setsOf clk es = b * 2
  length : es.length = k + b * 5

section

variable {clk cs din : LineId} {delay : Nat}

/-- The costs of consecutive events add up. -/
theorem Tally.append {k₁ k₂ b₁ b₂ : Nat} {es₁ es₂ : List Event} (h₁ : Tally clk cs din delay k₁ b₁ es₁)
    (h₂ : Tally clk cs din delay k₂ b₂ es₂) : Tally clk cs din delay (k₁ + k₂) (b₁ + b₂) (es₁ ++ es₂) where
  duration := by rw [lowerBound_append, h₁.duration, h₂.duration, Nat.add_mul, Nat.add_mul]
  commDelays := by rw [List.count_append, h₁.commDelays, h₂.commDelays, Nat.add_mul]
  delays := by rw [microDelays_append, h₁.delays, h₂.delays, Nat.add_mul]
  selects := by rw [setsOf_append, h₁.selects, h₂.selects]
  dataChanges := by rw [setsOf_append, h₁.dataChanges, h₂.dataChanges]
  clockChanges := by rw [setsOf_append, h₁.clockChanges, h₂.clockChanges, Nat.add_mul]
  length := by rw [List.length_append, h₁.length, h₂.length]; omega

/-- A sequence of cells, each at the cost of one bit cell, costs as many bit cells as it has cells. -/
theorem Tally.flatMap {α : Type} {cells : α → List Event} (h : ∀ x, Tally clk cs din delay 0 1 (cells x))
    (xs : List α) : Tally clk cs din delay 0 xs.length (xs.flatMap cells) := by
  induction xs with
  | nil => constructor <;> simp [lowerBound, microDelays, setsOf]
  | cons x xs ih =>
    rw [List.flatMap_cons, List.length_cons, Nat.add_comm]
    exact (h x).append ih

theorem bitCell_tally (h1 : clk ≠ cs) (h2 : clk ≠ din) (h3 : cs ≠ din) (bit : Bool) :
    Tally clk cs din delay 0 1 (bitCell clk din delay bit) := by
  constructor <;> simp [bitCell, lowerBound, microsOf, microDelays, setsOf, h1, h2, h2.symm, h3.symm, Nat.two_mul]

/-- A change of chip-select takes no time (R250). -/
theorem setChipSelect_tally (h1 : clk ≠ cs) (h3 : cs ≠ din) (level : Level) :
    Tally clk cs din delay 1 0 [.setLine cs level] := by
  constructor <;> simp [lowerBound, microsOf, microDelays, setsOf, h1.symm, h3]

/-- A byte is eight bit cells (R139). -/
theorem shiftByte_tally (h1 : clk ≠ cs) (h2 : clk ≠ din) (h3 : cs ≠ din) (v : Byte) :
    Tally clk cs din delay 0 8 (shiftByte clk din delay v) :=
  .flatMap (fun j => bitCell_tally h1 h2 h3 (v.getLsbD j)) [7, 6, 5, 4, 3, 2, 1, 0]

/-- A frame is two changes of chip-select around its two bytes (R137). -/
theorem softwareFrame_tally (h1 : clk ≠ cs) (h2 : clk ≠ din) (h3 : cs ≠ din) (f : Frame) :
    Tally clk cs din delay 2 16 (softwareFrame clk cs din delay f) :=
  have bytes := (shiftByte_tally h1 h2 h3 f.addr).append (shiftByte_tally h1 h2 h3 f.data)
  (setChipSelect_tally h1 h3 Config.csActive).append
    (bytes.append (setChipSelect_tally h1 h3 Config.csActive.other))

end

/-- Settles O18: WRITE_FRAME appends one frame's waveform, which is two changes of chip-select and sixteen bit
cells. -/
theorem softwareFrameDuration : Obligations.SoftwareFrameDuration := by
  unfold Obligations.SoftwareFrameDuration
  intro s a d clk cs din hs ht h1 h2 h3
  have cost := softwareFrame_tally (delay := s.commDelay.toNat) h1 h2 h3 ⟨a, d⟩
  exact ⟨_, _, exec_writeFrame_ready hs a d, sent_events_software ht ⟨a, d⟩, cost.duration, cost.commDelays,
    cost.delays, cost.selects, cost.dataChanges, cost.clockChanges, cost.length⟩

end Sys2Proof.Machine
end
